-- ==== Sys2Proof/Word.lean ====
section
/-! DEFINITION. The widths of the block and its two one-bit enumerations (00_scope.md R7, R8, R10, R11). -/

namespace Sys2Proof

/-- XLEN = 32: every host-visible register and the bus data (R8). -/
abbrev Word := BitVec 32

/-- LINE_ID_W = 8: one line identifier (R8); also one ASCII character of a mode tag (R88). -/
abbrev Byte := BitVec 8

/-- One coil pattern, "always exactly 4" wide (R7, R31): bit k is pattern position k, line k+1. -/
abbrev Pattern := BitVec 4

/-- `popcount(v)` of R11, for a pattern: how many coils it energises. -/
def popcount (p : Pattern) : Nat :=
  (p.getLsbD 0).toNat + (p.getLsbD 1).toNat + (p.getLsbD 2).toNat + (p.getLsbD 3).toNat

/-- The pattern table in use (R20 MODE, MV_MODE): one bit, 0 FULL, 1 HALF. -/
inductive Mode where
  | full
  | half
deriving DecidableEq, Repr

/-- The direction of a move (R20 MV_DIR, R82): one bit, 0 forward (+1), 1 reverse (-1). -/
inductive Direction where
  | forward
  | reverse
deriving DecidableEq, Repr

end Sys2Proof
end

