-- ==== Sys2Proof/Machine/Ports.lean ====
section
/-! DEFINITION. The interface signals of the block (10_state.md R22): what one clock cycle brings in and what the block drives out. -/

namespace Sys2Proof.Machine

/-- The inputs of one clock cycle (R22), sampled at the rising edge that ends it.
`claimable` is the platform's `LINE_CLAIMABLE` in that cycle: bit `id` says that line id `id` is valid and can be claimed
(R9, R35); it is drawn afresh in every cycle, which D40 calls the safe choice. -/
structure CycleIn where
  rst       : Bool
  busValid  : Bool
  busWrite  : Bool
  busAddr   : BitVec 4
  busWdata  : Word
  wrAck     : Bool
  wrErr     : Bool
  dlyDone   : Bool
  dlyErr    : Bool
  claimable : BitVec 256
deriving DecidableEq, Repr, Inhabited

/-- The outputs of one clock cycle (R22), functions of the state and of the same cycle's inputs.
`busRdata` is `none` in a reset cycle and `wrData` is `none` when the index lies outside the table: the spec states no
value there. -/
structure Outputs where
  busReady : Bool
  busRdata : Option Word
  wrReq    : Bool
  wrData   : Option Pattern
  dlyReq   : Bool
  dlyUs    : Word
  lineIds  : Word
  lineEn   : Bool
  coil     : Pattern
  busy     : Bool
deriving DecidableEq, Repr

end Sys2Proof.Machine
end

