-- ==== Sys2Proof/Config.lean ====
section
/-! DEFINITION. The parameters of 00_scope.md R7, R8 and R9, the type of the two pattern tables, and the free draw of a cycle's inputs. -/

namespace Sys2Proof

/-- The two read-only pattern tables (10_state.md R31): 4 FULL entries and 8 HALF entries of 4 bits. -/
structure PatternTables where
  full : Vector Pattern 4
  half : Vector Pattern 8
deriving DecidableEq, Repr

/-- `L(m)`: L_FULL = 4, L_HALF = 8 (R7, R11). -/
def Config.tableLength : Mode → Nat
  | .full => 4
  | .half => 8

/-- SPR_FULL = 2048 and SPR_HALF = 4096, used by ROTATE only (R7, R151). -/
def Config.stepsPerRevolution : Mode → Int
  | .full => 2048
  | .half => 4096

/-- DWELL_DEFAULT: 1000 microseconds, the reset value of DWELL and the default of `initialize` (R7, R20, R95). -/
def Config.dwellDefault : Word := 1000#32

/-- HALF_TAG: the ASCII string "half", first character in bits [31:24] (R8, R88). -/
def Config.halfTag : Word := 0x68616C66#32

/-- The packing of "full", the tag a host driver supplies by default (R88, R95); any other tag means the same. -/
def Config.fullTag : Word := 0x66756C6C#32

/-- The default contents of the tables (R9, R31, D20). PRESUMED: the spec marks them as general knowledge (I1).
They are only the contents State.reset starts with; the machine reads `State.tables`. -/
def Config.defaultTables : PatternTables where
  full := #v[0x3#4, 0x6#4, 0xC#4, 0x9#4]
  half := #v[0x1#4, 0x3#4, 0x2#4, 0x6#4, 0x4#4, 0xC#4, 0x8#4, 0x9#4]

/-- The inputs of cycle `n` where State schedules none: a free draw (R9, U3, U4). No body: nothing can be proved of its value. -/
opaque Config.freeInput : Nat → Machine.CycleIn

/-- The tag a host driver sends for a string of more than four characters, before it is kept from being the half tag: "any
non-"half" tag" (R88). No body: nothing can be proved of its value. -/
opaque Config.longTextTag : List Byte → Word

end Sys2Proof
end

