-- ==== Sys2Proof/Syntax.lean ====
section
/-! DEFINITION. The command set v1 (30_encoding.md R81), one constructor per row of spec/opcode_table.json. -/

namespace Sys2Proof

/-- The five commands. Their other operands are not in the command word: they are in ARG0..ARG2 (R80, R86). -/
inductive Instr where
  /-- INIT: `initialize(line1, line2, line3, line4, mode, dwellMicros)` (R110). -/
  | init
  /-- SET_MODE: `setStepMode(mode)` (R120). -/
  | setMode
  /-- STEP: `stepMotor(direction, steps)` (R144). -/
  | step (dir : Direction)
  /-- ROTATE: `rotateDegrees(degrees, direction)` (R150). -/
  | rotate (dir : Direction)
  /-- SET_DWELL, the spec's own (R130). -/
  | setDwell
deriving DecidableEq, Repr

end Sys2Proof
end

