-- ==== Sys2Proof/WellFormed.lean ====
section
/-! DEFINITION. What is well formed: the three fields of a command word (30_encoding.md R80-R83, R92), an instruction, and the pattern tables (10_state.md R31). -/

namespace Sys2Proof

/-- The fields of the one command format (R80). -/
structure CommandFields where
  op  : BitVec 4
  dir : BitVec 2
  rsv : BitVec 26
deriving DecidableEq, Repr

/-- RSV "must be zero in every legal command" (R83). -/
def CommandFields.reservedClear (f : CommandFields) : Bool := f.rsv == 0#26

/-- OP is one of the five opcodes (R81). -/
def CommandFields.opcodeKnown (f : CommandFields) : Bool :=
  f.op == 1#4 || f.op == 2#4 || f.op == 3#4 || f.op == 4#4 || f.op == 5#4

/-- STEP and ROTATE are legal exactly when DIR[0] = 1; every other command only with DIR = 0b00 (R82). -/
def CommandFields.directionFits (f : CommandFields) : Bool :=
  if f.op == 3#4 || f.op == 4#4 then f.dir.getLsbD 0 else f.dir == 0#2

/-- A legal command word passes all three checks (R92). -/
def CommandFields.legal (f : CommandFields) : Bool :=
  f.reservedClear && f.opcodeKnown && f.directionFits

/-- An instruction's operands are of closed types (the directions 0 and -2 of R82 cannot be written), so no term is ill formed;
the checks above stand on the raw fields, before an instruction exists. -/
def Instr.WellFormed : Instr → Bool
  | .init => true
  | .setMode => true
  | .step _ => true
  | .rotate _ => true
  | .setDwell => true

/-- R31: every FULL entry energises 1 or 2 coils. -/
def PatternTables.fullLegal (t : PatternTables) : Bool :=
  t.full.toList.all fun p => decide (1 ≤ popcount p ∧ popcount p ≤ 2)

/-- R31: the HALF entries alternate 1 and 2 energised coils: each entry has 1 or 2, neighbours have 3 together. -/
def PatternTables.halfLegal (t : PatternTables) : Bool :=
  (t.half.toList.all fun p => decide (1 ≤ popcount p ∧ popcount p ≤ 2)) &&
    (List.zip t.half.toList t.half.toList.tail).all fun q => popcount q.1 + popcount q.2 == 3

/-- The constraints of R31 on the two tables. -/
def PatternTables.legal (t : PatternTables) : Bool := t.fullLegal && t.halfLegal

end Sys2Proof
end

