-- ==== Sys2Proof/Decode.lean ====
section
/-! DEFINITION. The decoder of 30_encoding.md R84, total over every 32-bit word, the opcode map of R85, and the encoder. -/

namespace Sys2Proof

/-- Why a word is ILLEGAL: the four cases of R92, in the order R84 meets them. The block reports one code for all of them (R103). -/
inductive IllegalReason where
  /-- a set RSV bit (R83) -/
  | reservedBits
  /-- OP 0x0 or 0x6..0xF (R81) -/
  | unknownOpcode
  /-- INIT, SET_MODE or SET_DWELL with DIR other than 0b00 (R82) -/
  | directionNotTaken
  /-- STEP or ROTATE with DIR 0b00 (direction 0) or 0b10 (direction -2) (R82) -/
  | directionInvalid
deriving DecidableEq, Repr

/-- What the decoder answers: a command, or ILLEGAL with its reason (R84). -/
inductive Decoded where
  | command (i : Instr)
  | illegal (r : IllegalReason)
deriving DecidableEq, Repr

/-- The fields of a word: OP = w[3:0], DIR = w[5:4], RSV = w[31:6] (R80). -/
def CommandFields.ofWord (w : Word) : CommandFields where
  op  := w.extractLsb' 0 4
  dir := w.extractLsb' 4 2
  rsv := w.extractLsb' 6 26

/-- The word of three fields: RSV ++ DIR ++ OP (R80). -/
def CommandFields.word (f : CommandFields) : Word := f.rsv ++ f.dir ++ f.op

/-- A command that takes no direction is legal only with DIR = 0b00 (R82). -/
def decodeWithoutDirection (i : Instr) (dir : BitVec 2) : Decoded :=
  if dir = 0b00#2 then .command i else .illegal .directionNotTaken

/-- The DIR field of STEP and ROTATE: 0b01 is +1, 0b11 is -1, 0b00 and 0b10 are illegal (R82). -/
def decodeDirected (mk : Direction → Instr) (dir : BitVec 2) : Decoded :=
  if dir = 0b01#2 then .command (mk .forward)
  else if dir = 0b11#2 then .command (mk .reverse)
  else .illegal .directionInvalid

/-- `decode(w)` of R84. -/
def decode (w : Word) : Decoded :=
  let f := CommandFields.ofWord w
  if f.rsv ≠ 0#26 then .illegal .reservedBits
  else if f.op = 0x1#4 then decodeWithoutDirection .init f.dir
  else if f.op = 0x2#4 then decodeWithoutDirection .setMode f.dir
  else if f.op = 0x3#4 then decodeDirected .step f.dir
  else if f.op = 0x4#4 then decodeDirected .rotate f.dir
  else if f.op = 0x5#4 then decodeWithoutDirection .setDwell f.dir
  else .illegal .unknownOpcode

/-- The DIR field that stands for a direction (R82). -/
def directionField : Direction → BitVec 2
  | .forward => 0b01#2
  | .reverse => 0b11#2

/-- The fields each command is written with (R81, R82, R83). -/
def Instr.fields : Instr → CommandFields
  | .init     => { op := 0x1#4, dir := 0b00#2, rsv := 0#26 }
  | .setMode  => { op := 0x2#4, dir := 0b00#2, rsv := 0#26 }
  | .step d   => { op := 0x3#4, dir := directionField d, rsv := 0#26 }
  | .rotate d => { op := 0x4#4, dir := directionField d, rsv := 0#26 }
  | .setDwell => { op := 0x5#4, dir := 0b00#2, rsv := 0#26 }

/-- The one word of a command (R93). -/
def encode (i : Instr) : Word := i.fields.word

/-- One row of the opcode map (R85): a word `w` is the command when `w & mask = match`. -/
structure OpcodeRow where
  mask    : Word
  pattern : Word
deriving DecidableEq, Repr

/-- `w & mask = match` (R85). -/
def OpcodeRow.matches (r : OpcodeRow) (w : Word) : Bool := w &&& r.mask == r.pattern

/-- The row of R85 (and of spec/opcode_table.json) that a command belongs to. -/
def Instr.row : Instr → OpcodeRow
  | .init     => { mask := 0xFFFFFFFF#32, pattern := 0x00000001#32 }
  | .setMode  => { mask := 0xFFFFFFFF#32, pattern := 0x00000002#32 }
  | .step _   => { mask := 0xFFFFFFDF#32, pattern := 0x00000013#32 }
  | .rotate _ => { mask := 0xFFFFFFDF#32, pattern := 0x00000014#32 }
  | .setDwell => { mask := 0xFFFFFFFF#32, pattern := 0x00000005#32 }

/-- The five rows of the opcode map (R85). -/
def opcodeMap : List OpcodeRow :=
  [Instr.row .init, Instr.row .setMode, Instr.row (.step .forward), Instr.row (.rotate .forward), Instr.row .setDwell]

/-- The decoder on the opcode table's numbering: a command is one 32-bit word (R93), so its bits are the word itself, and a
value that needs more than 32 bits is no command. -/
def decodeTableWord (nbits w : Nat) : Option Instr :=
  let v := w % 2 ^ nbits
  if v < 2 ^ 32 then
    match decode (BitVec.ofNat 32 v) with
    | .command i => some i
    | .illegal _ => none
  else none

end Sys2Proof
end

