-- ==== Sys2Proof/Machine/State.lean ====
section
/-! DEFINITION. The complete state of the block (10_state.md R20), what stands beside it, the reasons a step can stop, and the state after reset. -/

namespace Sys2Proof.Machine

/-- The states of the coil_driver_fsm (R21). -/
inductive Fsm where
  /-- no successful INIT since reset -/
  | uncfg
  /-- configured and not moving -/
  | idle
  /-- a coil write request is outstanding -/
  | emit
  /-- a delay request is outstanding -/
  | dwell
deriving DecidableEq, Repr

/-- The codes held in ERR (60_exceptions.md R200); codes 7..15 are never written and have no constructor. -/
inductive ErrCode where
  | ok
  | configurationError
  | invalidArgument
  | platformIoError
  | illegalCommand
  | notConfigured
  | alreadyConfigured
deriving DecidableEq, Repr

/-- The state of the block. The first thirteen fields are R20's, in its order; "nothing else is state". `tables` holds the two
read-only pattern tables of R31, a parameter that no step writes. `inputs` and `cycle` are the model's own: the inputs of the
coming cycles, this cycle's first, and the number of cycles gone by, which picks the free draw where nothing is scheduled. -/
structure State where
  fsm    : Fsm
  arg0   : Word
  arg1   : Word
  arg2   : Word
  mode   : Mode
  dwell  : Word
  lines  : Word
  coil   : Pattern
  err    : ErrCode
  idx    : BitVec 3
  mvDir  : Direction
  mvMode : Mode
  remain : Word
  tables : PatternTables
  inputs : List CycleIn
  cycle  : Nat
deriving DecidableEq, Repr

/-- The reasons the machine stops with a fault. -/
inductive Fault where
  /-- Raised by a cycle in EMIT whose index lies outside the latched table: R142 says that a total `pat` "should fault there, not
  return a value" (U10). Safe: no such state is reachable (R40), and nothing is claimed of what the block would write. -/
  | indexOutsideTable
deriving DecidableEq, Repr

/-- The reasons an instruction has no meaning in this model. -/
inductive Refusal where
  /-- Raised by an arm of exec for an instruction that is not modelled yet. Safe. No arm raises it in this model. -/
  | notModelled (mnemonic : String)
deriving DecidableEq, Repr

/-- RESET_STATE (70_reset_and_hazards.md R230; the reset column of R20), with the default tables of R9 and no input scheduled. -/
def State.reset : State where
  fsm    := .uncfg
  arg0   := 0#32
  arg1   := 0#32
  arg2   := 0#32
  mode   := .full
  dwell  := Config.dwellDefault
  lines  := 0#32
  coil   := 0#4
  err    := .ok
  idx    := 0#3
  mvDir  := .forward
  mvMode := .full
  remain := 0#32
  tables := Config.defaultTables
  inputs := []
  cycle  := 0

end Sys2Proof.Machine
end

