-- ==== Sys2Proof/Machine/Flags.lean ====
section
/-! DEFINITION. The status bits BUSY and CFG (10_state.md R21, R26), the encodings of the state's enumerations (R20, R200), the STATUS word and the read value of every register word (20_memory.md R51, R53, R54, R58). -/

namespace Sys2Proof.Machine

/-- The two bits of FSM (R20). -/
def Fsm.bits : Fsm → BitVec 2
  | .uncfg => 0b00#2
  | .idle  => 0b01#2
  | .emit  => 0b10#2
  | .dwell => 0b11#2

/-- The four bits of ERR (R200). -/
def ErrCode.bits : ErrCode → BitVec 4
  | .ok                 => 0#4
  | .configurationError => 1#4
  | .invalidArgument    => 2#4
  | .platformIoError    => 3#4
  | .illegalCommand     => 4#4
  | .notConfigured      => 5#4
  | .alreadyConfigured  => 6#4

/-- The bit of MODE and of MV_MODE: 0 FULL, 1 HALF (R20). -/
def modeBit : Mode → BitVec 1
  | .full => 0#1
  | .half => 1#1

/-- The bit of MV_DIR: 0 forward, 1 reverse (R20). -/
def directionBit : Direction → BitVec 1
  | .forward => 0#1
  | .reverse => 1#1

/-- `BUSY = FSM[1]` (R21). -/
def State.busy (s : State) : Bool := s.fsm.bits.getLsbD 1

/-- `CFG = (FSM != UNCFG)` (R21). -/
def State.configured (s : State) : Bool := s.fsm != .uncfg

/-- The read value of STATUS, in R53's own order of concatenation. -/
def statusWord (s : State) : Word :=
  (modeBit s.mvMode ++ directionBit s.mvDir ++ s.idx ++ s.err.bits ++ 0b000#3 ++ modeBit s.mode ++
    BitVec.ofBool s.configured ++ BitVec.ofBool s.busy ++ s.fsm.bits).setWidth 32

/-- The read value of register word `a` (R51, R54, R58): CMD and the reserved words read 0. -/
def readValue (s : State) (a : BitVec 4) : Word :=
  match a.toNat with
  | 1 => s.arg0
  | 2 => s.arg1
  | 3 => s.arg2
  | 4 => statusWord s
  | 5 => s.coil.setWidth 32
  | 6 => s.dwell
  | 7 => s.lines
  | 8 => s.remain
  | _ => 0#32

end Sys2Proof.Machine
end

