-- ==== Sys2Proof/Machine/Indexer.lean ====
section
/-! DEFINITION. The pattern_table_indexer (41_motion.md R140-R143). -/

namespace Sys2Proof.Machine

/-- `T(m)` (R140). -/
def tableOf (t : PatternTables) : Mode → List Pattern
  | .full => t.full.toList
  | .half => t.half.toList

/-- `order(m, d)`: "T itself if direction > 0, or T reversed if direction < 0" (R141). -/
def traversalOrder (t : PatternTables) (m : Mode) : Direction → List Pattern
  | .forward => tableOf t m
  | .reverse => (tableOf t m).reverse

/-- `pat(m, d, k)` for `k < L(m)` (R142); `none` outside the table. -/
def pat (t : PatternTables) (m : Mode) (d : Direction) (k : Nat) : Option Pattern :=
  if k < Config.tableLength m then
    match d with
    | .forward => (tableOf t m)[k]?
    | .reverse => (tableOf t m)[Config.tableLength m - 1 - k]?
  else none

end Sys2Proof.Machine
end

