-- ==== Sys2Proof/Machine/Operands.lean ====
section
/-! DEFINITION. How each command's operands are decoded from ARG0..ARG2 (30_encoding.md R86-R91, 40_config.md R112, 41_motion.md R151). -/

namespace Sys2Proof.Machine

/-- `id_k = ARG0[8k+7:8k]`, the identifier of line k+1 (R87). -/
def lineId (w : Word) (k : Nat) : Byte := w.extractLsb' (8 * k) 8

/-- The four line identifiers of an INIT (R87, R110). -/
def lineIds (w : Word) : List Byte := [lineId w 0, lineId w 1, lineId w 2, lineId w 3]

/-- `LINE_CLAIMABLE(id)` (R9, R35), read from the platform's 256 answers. -/
def lineClaimable (claimable : BitVec 256) (id : Byte) : Bool := claimable.getLsbD id.toNat

/-- INIT's line check: the four identifiers are distinct and each can be claimed (R112). -/
def linesAccepted (claimable : BitVec 256) (w : Word) : Bool :=
  decide (lineIds w).Nodup && (lineIds w).all (lineClaimable claimable)

/-- `mode_of(t)`: HALF for the tag "half" alone, FULL for every other value; no tag is an error (R88). -/
def modeOf (tag : Word) : Mode := if tag = Config.halfTag then .half else .full

/-- A dwell operand is valid exactly when `sint32(w) > 0` (R91). -/
def dwellValid (w : Word) : Bool := decide (0 < w.toInt)

/-- STEP's pass count `sint32(ARG0)` (R89). -/
def passCount (w : Word) : Int := w.toInt

/-- ROTATE's stepsNeeded: `D = sint32(ARG0)` in Q16.16 degrees, divided toward zero by 11520 (FULL) or 5760 (HALF) (R90, R151). -/
def rotatePasses (m : Mode) (w : Word) : Int :=
  match m with
  | .full => w.toInt.tdiv 11520
  | .half => w.toInt.tdiv 5760

end Sys2Proof.Machine
end

