-- ==== Sys2Proof/Machine/Ops.lean ====
section
/-! DEFINITION. The shared operations: this cycle's inputs, reset, acceptance of a command, reporting an error, starting a move and aborting one. The block has no trap (60_exceptions.md R207, R208): reporting an error and the abort stand where other hardware takes an exception. -/

namespace Sys2Proof.Machine

/-- The inputs of this cycle: the first scheduled ones, or a free draw where none is scheduled (R9, R17). -/
def State.input (s : State) : CycleIn :=
  match s.inputs with
  | inp :: _ => inp
  | [] => Config.freeInput s.cycle

/-- The clock edge as the environment sees it: this cycle's inputs are used up. -/
def State.consume (s : State) : State := { s with inputs := s.inputs.tail, cycle := s.cycle + 1 }

/-- Every field of R20 at its reset value (R230). The tables are constants and the environment is outside the block. -/
def resetBlock (s : State) : State :=
  { State.reset with tables := s.tables, inputs := s.inputs, cycle := s.cycle }

/-- `raise Err(code)` (R13): ERR is written and nothing else; it is reported, never trapped (R201). -/
def raiseErr (e : ErrCode) (s : State) : State := { s with err := e }

/-- Acceptance of a command (R100): it happens only in UNCFG or IDLE. A command presented during a move is held, with no effect
(20_memory.md R55). -/
def accepted (effect : State → State) (s : State) : Host.Outcome State Fault Refusal :=
  if s.busy then .next s else .next (effect s)

/-- A legal command other than INIT in UNCFG has the sole effect `ERR <- NOT_CONFIGURED` (R102). -/
def whenConfigured (effect : State → State) (s : State) : State :=
  if s.fsm = .uncfg then raiseErr .notConfigured s else effect s

/-- `start_move(n, rev)` (R145): a zero-length move when `n <= 0`, otherwise the move is latched and the first write requested. -/
def startMove (n : Int) (d : Direction) (s : State) : State :=
  if n ≤ 0 then { s with err := .ok }
  else
    { s with
      mvMode := s.mode
      mvDir  := d
      remain := BitVec.ofInt 32 n
      idx    := 0#3
      err    := .ok
      fsm    := .emit }

/-- `abort` (60_exceptions.md R204): the move ends, ERR says why, and everything else keeps its value. -/
def abortMove (s : State) : State := { s with fsm := .idle, err := .platformIoError }

/-- One part of a cycle after another; the first that stops stops the cycle. -/
def chain (o : Host.Outcome State Fault Refusal) (f : State → Host.Outcome State Fault Refusal) :
    Host.Outcome State Fault Refusal :=
  match o with
  | .next s => f s
  | .fault r => .fault r
  | .refused r => .refused r

end Sys2Proof.Machine
end

