-- ==== Sys2Proof/Machine/CoilDriver.lean ====
section
/-! DEFINITION. The coil_driver_fsm: what one cycle of a move does (41_motion.md R160-R166). Each function reads the state `s` before the edge and writes onto `t`, which differs from `s` at most by the host access of the same cycle (00_scope.md R12). -/

namespace Sys2Proof.Machine

/-- Progress in EMIT, `p` being the requested pattern (R162); `wr_err` wins over `wr_ack` (R206). -/
def emitProgress (inp : CycleIn) (p : Pattern) (t : State) : State :=
  if inp.wrErr then abortMove t
  else if inp.wrAck then { t with coil := p, fsm := .dwell }
  else t

/-- `advance` at the end of a dwell (R164, R165): the next pattern, the next pass, or the end of the move. -/
def advanceMove (s t : State) : State :=
  if s.idx.toNat < Config.tableLength s.mvMode - 1 then { t with idx := s.idx + 1#3, fsm := .emit }
  else if 1 < s.remain.toNat then { t with idx := 0#3, remain := s.remain - 1#32, fsm := .emit }
  else { t with idx := 0#3, remain := 0#32, fsm := .idle }

/-- Progress in DWELL (R163); `dly_err` wins over `dly_done` (R206). -/
def dwellProgress (inp : CycleIn) (s t : State) : State :=
  if inp.dlyErr then abortMove t
  else if inp.dlyDone then advanceMove s t
  else t

/-- The FSM progress of one cycle (R160): only in EMIT and DWELL; elsewhere the platform's answers are ignored (R166). -/
def fsmProgress (inp : CycleIn) (s t : State) : Host.Outcome State Fault Refusal :=
  match s.fsm with
  | .uncfg => .next t
  | .idle => .next t
  | .emit =>
    match pat s.tables s.mvMode s.mvDir s.idx.toNat with
    | some p => .next (emitProgress inp p t)
    | none => .fault .indexOutsideTable
  | .dwell => .next (dwellProgress inp s t)

end Sys2Proof.Machine
end

