-- ==== Sys2Proof/Machine/Configure.lean ====
section
/-! DEFINITION. The configuration family: INIT, SET_MODE, SET_DWELL (40_config.md R110-R132). -/

namespace Sys2Proof.Machine

/-- `exec_INIT` in UNCFG (R111, R112): lines are checked before the dwell. -/
def configureLines (s : State) : State :=
  if linesAccepted s.input.claimable s.arg0 = false then raiseErr .configurationError s
  else if dwellValid s.arg2 = false then raiseErr .invalidArgument s
  else
    { s with
      lines := s.arg0
      mode  := modeOf s.arg1
      dwell := s.arg2
      coil  := 0#4
      fsm   := .idle
      err   := .ok }

/-- INIT (R110-R113): refused once configured, because "line identities are fixed for the sequencer's lifetime". -/
def execInit (s : State) : Host.Outcome State Fault Refusal :=
  accepted (fun s => if s.fsm = .uncfg then configureLines s else raiseErr .alreadyConfigured s) s

/-- SET_MODE (R120). -/
def execSetMode (s : State) : Host.Outcome State Fault Refusal :=
  accepted (whenConfigured fun s => { s with mode := modeOf s.arg0, err := .ok }) s

/-- SET_DWELL (R130). -/
def execSetDwell (s : State) : Host.Outcome State Fault Refusal :=
  accepted
    (whenConfigured fun s =>
      if dwellValid s.arg0 then { s with dwell := s.arg0, err := .ok } else raiseErr .invalidArgument s) s

end Sys2Proof.Machine
end

