-- ==== Sys2Proof/Machine/Motion.lean ====
section
/-! DEFINITION. The motion family at acceptance: STEP and ROTATE (41_motion.md R144-R154). -/

namespace Sys2Proof.Machine

/-- STEP (R145): the pass count is `sint32(ARG0)`. -/
def execStep (d : Direction) (s : State) : Host.Outcome State Fault Refusal :=
  accepted (whenConfigured fun s => startMove (passCount s.arg0) d s) s

/-- ROTATE (R152): "Delegates to stepMotor(direction, stepsNeeded)", in the mode at acceptance. -/
def execRotate (d : Direction) (s : State) : Host.Outcome State Fault Refusal :=
  accepted (whenConfigured fun s => startMove (rotatePasses s.mode s.arg0) d s) s

end Sys2Proof.Machine
end

