-- ==== Sys2Proof/Machine/Dispatch.lean ====
section
/-! DEFINITION. One arm per command (40_config.md R100): the meaning of each command presented to the block. -/

namespace Sys2Proof.Machine

/-- The meaning of command `i`, presented in state `s`. -/
def exec (i : Instr) (s : State) : Host.Outcome State Fault Refusal :=
  match i with
  | .init => Sys2Proof.Machine.execInit s
  | .setMode => Sys2Proof.Machine.execSetMode s
  | .step d => Sys2Proof.Machine.execStep d s
  | .rotate d => Sys2Proof.Machine.execRotate d s
  | .setDwell => Sys2Proof.Machine.execSetDwell s

end Sys2Proof.Machine
end

