-- ==== Sys2Proof/Machine/Bus.lean ====
section
/-! DEFINITION. Host accesses (20_memory.md R50-R58), the outputs of a cycle (10_state.md R22) and the complete cycle function (41_motion.md R167). -/

namespace Sys2Proof.Machine

/-- `bus_ready` (R55): 0 in reset and for a CMD write during a move, else 1; with `bus_valid = 0` it is 1.
The formula of R167, which differs there, is `cycleReady` (log entry 7). -/
def busReady (inp : CycleIn) (s : State) : Bool :=
  !inp.rst && !(inp.busValid && inp.busWrite && inp.busAddr == 0#4 && s.busy)

/-- The access is performed in this cycle (R55). -/
def accessPerformed (inp : CycleIn) (s : State) : Bool := inp.busValid && busReady inp s

/-- `accept(w)` (R100): an illegal word has the sole effect `ERR <- ILLEGAL_COMMAND` (R103). -/
def acceptWord (w : Word) (s : State) : Host.Outcome State Fault Refusal :=
  match decode w with
  | .command i => exec i s
  | .illegal _ => accepted (raiseErr .illegalCommand) s

/-- `BusWrite(i, v)` (R57): CMD, the three operand registers; a write to any other word is performed and ignored. -/
def busWrite (a : BitVec 4) (v : Word) (s : State) : Host.Outcome State Fault Refusal :=
  match a.toNat with
  | 0 => acceptWord v s
  | 1 => .next { s with arg0 := v }
  | 2 => .next { s with arg1 := v }
  | 3 => .next { s with arg2 := v }
  | _ => .next s

/-- The host access of one cycle (R55-R57); a read changes nothing (R56). -/
def hostAccess (inp : CycleIn) (s : State) : Host.Outcome State Fault Refusal :=
  if accessPerformed inp s && inp.busWrite then busWrite inp.busAddr inp.busWdata s else .next s

/-- The outputs of this cycle (R22, R167). -/
def outputs (s : State) : Outputs where
  busReady := busReady s.input s
  busRdata := if s.input.rst then none else some (readValue s s.input.busAddr)
  wrReq    := s.fsm == .emit && !s.input.rst
  wrData   := pat s.tables s.mvMode s.mvDir s.idx.toNat
  dlyReq   := s.fsm == .dwell && !s.input.rst
  dlyUs    := s.dwell
  lineIds  := s.lines
  lineEn   := s.configured
  coil     := s.coil
  busy     := s.busy

/-- One clock cycle (R160, R167): reset overrides everything (R206), else the host access and then the FSM progress. -/
def clockCycle (s : State) : Host.Outcome State Fault Refusal :=
  if s.input.rst then .next (resetBlock s).consume
  else
    chain (hostAccess s.input s) fun t =>
      chain (fsmProgress s.input s t) fun u => .next u.consume

/-- A cycle's inputs with its bus ports carrying a request; every other input stays as it is (R22, R55). -/
def CycleIn.request (inp : CycleIn) (write : Bool) (a : BitVec 4) (v : Word) : CycleIn :=
  { inp with busValid := true, busWrite := write, busAddr := a, busWdata := v }

/-- `s` with `inp` as the inputs of the coming cycle; all later inputs stay as they are. -/
def State.withInput (s : State) (inp : CycleIn) : State := { s with inputs := inp :: s.inputs.tail }

end Sys2Proof.Machine
end

