-- ==== Sys2Proof/Machine/Step.lean ====
section
/-! DEFINITION. The step of the machine, one clock cycle (00_scope.md R17, 41_motion.md R167), and the state in which the next step is given a command word. -/

namespace Sys2Proof.Machine

/-- One step is one clock cycle. -/
def step : State → Host.Outcome State Fault Refusal := clockCycle

/-- `s` with the command word of the given bits presented on the bus as a write to CMD in the coming cycle: the block fetches
nothing (R25), so this write is how a command reaches it (R52). The platform's answers of that cycle stay as they are. -/
def State.withFetchWord (s : State) (nbits w : Nat) : State :=
  s.withInput { s.input.request true 0#4 (BitVec.ofNat 32 (w % 2 ^ nbits)) with rst := false }

end Sys2Proof.Machine
end

