-- ==== Sys2Proof/Machine/CycleFunction.lean ====
section
/-! DEFINITION. The complete cycle function as 41_motion.md R167 writes it, its own formula of `bus_ready` included: that formula and the transfer rule of 20_memory.md R55, which `busReady` follows, differ in a cycle that presents no access (log entry 7). -/

namespace Sys2Proof.Machine

/-- `out.bus_ready` of R167, with `in.rst = 0`: `not (in.bus_write and in.bus_addr = 0 and s.FSM[1])`, whatever `bus_valid` is. -/
def cycleReady (inp : CycleIn) (s : State) : Bool := !(inp.busWrite && inp.busAddr == 0#4 && s.busy)

/-- The outputs that R167 returns; it writes all but `bus_ready` as `outputs` does. -/
def cycleOutputs (s : State) : Outputs := { outputs s with busReady := !s.input.rst && cycleReady s.input s }

/-- `if in.bus_valid and out.bus_ready and in.bus_write then apply BusWrite(in.bus_addr, in.bus_wdata)` (R167). -/
def cycleAccess (s : State) : Host.Outcome State Fault Refusal :=
  if s.input.busValid && cycleReady s.input s && s.input.busWrite then busWrite s.input.busAddr s.input.busWdata s else .next s

/-- `step(s, in)` of R167, `in` being this cycle's inputs: the next state and the outputs. -/
def cycleFunction (s : State) : Host.Outcome State Fault Refusal × Outputs :=
  if s.input.rst then (.next (resetBlock s).consume, cycleOutputs s)
  else (chain (cycleAccess s) fun t => chain (fsmProgress s.input s t) fun u => .next u.consume, cycleOutputs s)

end Sys2Proof.Machine
end

