-- ==== Sys2Proof/Machine/HostProgram.lean ====
section
/-! DEFINITION. The host as an agent: the syntax of a host program, its bus triples, the pseudo-instructions named after the source's operations, and a host that presents one operation at a time (30_encoding.md R94, R95; 20_memory.md R55, R65). -/

namespace Sys2Proof.Machine

/-- `<reg>` of R94: a register's name, or a word index `#i`. -/
inductive RegName where
  | cmd
  | arg0
  | arg1
  | arg2
  | status
  | coil
  | dwell
  | lines
  | remain
  | word (i : BitVec 4)
deriving DecidableEq, Repr

/-- `index(reg)`: the word index of the register map (R51). -/
def RegName.index : RegName → BitVec 4
  | .cmd    => 0#4
  | .arg0   => 1#4
  | .arg1   => 2#4
  | .arg2   => 3#4
  | .status => 4#4
  | .coil   => 5#4
  | .dwell  => 6#4
  | .lines  => 7#4
  | .remain => 8#4
  | .word i => i

/-- `<value>` of R94: a 32-bit literal, or a quoted string given by its ASCII codes. -/
inductive HostValue where
  | literal (w : Word)
  | text (chars : List Byte)
deriving DecidableEq, Repr

/-- A string of at most 4 characters fits in a tag; "longer strings cannot be carried" (R88). -/
def textCarried (chars : List Byte) : Bool := decide (chars.length ≤ 4)

/-- A quoted string holds 0 to 4 ASCII characters (R94). -/
def HostValue.wellFormed : HostValue → Bool
  | .literal _ => true
  | .text chars => textCarried chars && chars.all fun c => decide (c.toNat < 128)

/-- The tag a host driver sends for a string that cannot be carried: a free one, but never "half" (R88). -/
def uncarriedTag (chars : List Byte) : Word :=
  if Config.longTextTag chars = Config.halfTag then Config.fullTag else Config.longTextTag chars

/-- A string packs its first character in bits [31:24] and pads with 0x00 in the low bytes; a longer one is not carried (R88). -/
def packText (chars : List Byte) : Word :=
  if textCarried chars then chars.getD 0 0#8 ++ chars.getD 1 0#8 ++ chars.getD 2 0#8 ++ chars.getD 3 0#8
  else uncarriedTag chars

/-- The 32-bit data of a value (R94). -/
def HostValue.word : HostValue → Word
  | .literal w => w
  | .text chars => packText chars

/-- One line of a host program (R94). -/
inductive HostOp where
  /-- `WR <reg>, <value>` -/
  | wr (r : RegName) (v : HostValue)
  /-- `RD <reg>` -/
  | rd (r : RegName)
  /-- `WAITIDLE`: `RD STATUS` repeated until BUSY reads 0 -/
  | waitIdle
  /-- a command mnemonic: `WR CMD, <word>` -/
  | command (i : Instr)
deriving DecidableEq, Repr

/-- A line is well formed when its value is (R94). -/
def HostOp.wellFormed : HostOp → Bool
  | .wr _ v    => v.wellFormed
  | .rd _      => true
  | .waitIdle  => true
  | .command _ => true

/-- The binary form of a line: (write, index, data); a read carries no data (R94). -/
def HostOp.triple : HostOp → Bool × BitVec 4 × Option Word
  | .wr r v    => (true, r.index, some v.word)
  | .rd r      => (false, r.index, none)
  | .waitIdle  => (false, RegName.status.index, none)
  | .command i => (true, RegName.cmd.index, some (encode i))

/-- The pseudo-instructions of R95, a default argument being `none`. -/
inductive HostCall where
  | initializeCall (line1 line2 line3 line4 : Byte) (tag : Option HostValue) (dwell : Option Word)
  | setStepMode (tag : HostValue)
  | stepMotor (dir : Direction) (n : Word)
  | rotateDegrees (degrees : Word) (dir : Option Direction)
  | setDwell (w : Word)
deriving DecidableEq, Repr

/-- A pseudo-instruction is well formed when its tag, where it has one, is (R94, R95). DESIGN CHOICE (log entry 24): `initialize` with a
dwell and no tag, for which R95 has no line, is well formed too. -/
def HostCall.wellFormed : HostCall → Bool
  | .initializeCall _ _ _ _ tag _ => tag.all HostValue.wellFormed
  | .setStepMode tag => tag.wellFormed
  | .stepMotor _ _ => true
  | .rotateDegrees _ _ => true
  | .setDwell _ => true

/-- The expansions of R95, with its defaults: mode "full", dwell 1000, direction +1. DESIGN CHOICE (log entry 24): `initialize` with a
dwell and no tag gets the default tag. -/
def HostCall.expand : HostCall → List HostOp
  | .initializeCall l1 l2 l3 l4 tag dwell =>
    [.wr .arg0 (.literal (l4 ++ l3 ++ l2 ++ l1)), .wr .arg1 (tag.getD (.literal Config.fullTag)),
      .wr .arg2 (.literal (dwell.getD Config.dwellDefault)), .command .init]
  | .setStepMode tag => [.wr .arg0 tag, .command .setMode]
  | .stepMotor dir n => [.wr .arg0 (.literal n), .command (.step dir)]
  | .rotateDegrees degrees dir => [.wr .arg0 (.literal degrees), .command (.rotate (dir.getD .forward))]
  | .setDwell w => [.wr .arg0 (.literal w), .command .setDwell]

/-- The bus ports while the host presents the head of its program (R55); with no line left it requests nothing. DESIGN CHOICE (log
entry 23): with a read, which carries no data (R56, R94), this host drives 0 on `bus_wdata`; with no line left it leaves the other bus
ports as this cycle's inputs have them. -/
def hostPresents (ops : List HostOp) (inp : CycleIn) : CycleIn :=
  match ops with
  | [] => { inp with busValid := false }
  | op :: _ => inp.request op.triple.1 op.triple.2.1 (op.triple.2.2.getD 0#32)

/-- The program left after a cycle: a line stays while it is held, and WAITIDLE while BUSY reads 1 (R55, R94). -/
def hostLeft (ops : List HostOp) (s : State) : List HostOp :=
  match ops with
  | [] => []
  | op :: rest =>
    if accessPerformed s.input s then
      if op = .waitIdle ∧ (readValue s RegName.status.index).getLsbD 2 = true then op :: rest else rest
    else op :: rest

/-- One cycle of the block driven by a host program; reset and the platform's answers are this cycle's own inputs. -/
def hostCycle (ops : List HostOp) (s : State) : List HostOp × Host.Outcome State Fault Refusal :=
  let presented := s.withInput (hostPresents ops s.input)
  (hostLeft ops presented, step presented)

end Sys2Proof.Machine
end

