-- ==== Sys2Proof/Safety.lean ====
section
/-! DEFINITION. The terms claims are made in: runs of several cycles, the invariants of 10_state.md R40, what the platform and the host must do (70_reset_and_hazards.md R244, 20_memory.md R55), and what a move emits (41_motion.md R146, R168, R169). -/

namespace Sys2Proof.Safety

open Sys2Proof.Machine

/-- `k` clock cycles, stopping at the first fault or refusal. -/
def runCycles : Nat → State → Host.Outcome State Fault Refusal
  | 0, s => .next s
  | k + 1, s => chain (step s) (runCycles k)

/-- Reached from RESET_STATE in `k` cycles under some tables that R31 allows and some inputs. -/
def Reachable (s : State) : Prop :=
  ∃ (tables : PatternTables) (inputs : List CycleIn) (cycle k : Nat),
    tables.legal = true ∧
      runCycles k { State.reset with tables := tables, inputs := inputs, cycle := cycle } = .next s

/-- The four invariants of R40, in its order. -/
abbrev StatedInvariant (s : State) : Prop :=
  (s.busy = true → 1 ≤ s.remain.toNat ∧ s.idx.toNat < Config.tableLength s.mvMode) ∧
  (s.fsm ≠ .uncfg → 1 ≤ s.dwell.toNat ∧ s.dwell.toNat ≤ 2 ^ 31 - 1) ∧
  (s.fsm = .uncfg → s.coil = 0#4 ∧ s.lines = 0#32 ∧ s.mode = .full ∧ s.dwell = 1000#32) ∧
  s.err.bits.toNat ≤ 6

/-- R40 with what else every reachable state satisfies: the index lies in the latched table also outside a move, a pass count
never exceeds `2^31 - 1` (R89), ERR reads OK during a move (R242), and the tables are ones R31 allows. DEDUCED, but for R40. -/
abbrev EngineInvariant (s : State) : Prop :=
  StatedInvariant s ∧
  s.idx.toNat < Config.tableLength s.mvMode ∧
  s.remain.toNat ≤ 2 ^ 31 - 1 ∧
  (s.busy = true → s.err = .ok) ∧
  s.tables.legal = true

/-- The platform answers a request only while it stands and never in two ways at once (R33, R34, R244). -/
abbrev AnswersLegal (s : State) : Prop :=
  ((s.input.wrAck = true ∨ s.input.wrErr = true) → (outputs s).wrReq = true) ∧
  ((s.input.dlyDone = true ∨ s.input.dlyErr = true) → (outputs s).dlyReq = true) ∧
  ¬ (s.input.wrAck = true ∧ s.input.wrErr = true)

/-- Two successive cycles of a host that keeps a held request stable (R55). -/
abbrev HostHolds (s t : State) : Prop :=
  s.input.rst = false → s.input.busValid = true → (outputs s).busReady = false →
    t.input.busValid = true ∧ t.input.busWrite = s.input.busWrite ∧ t.input.busAddr = s.input.busAddr ∧
      t.input.busWdata = s.input.busWdata

/-- A write of a command word that decodes to `i` is performed on CMD in this cycle (R52, R55). -/
abbrev CommandIssued (i : Instr) (s : State) : Prop :=
  accessPerformed s.input s = true ∧ s.input.busWrite = true ∧ s.input.busAddr = 0#4 ∧ decode s.input.busWdata = .command i

/-- What the platform sees completed in a cycle of a move: a coil write that it acknowledged, or a delay that it ended. -/
inductive MoveEvent where
  | wrote (p : Pattern)
  | dwelt (microseconds : Word)
deriving DecidableEq, Repr

/-- The request outstanding in `s` is answered, without failure, in this cycle (R162, R163). -/
def answered (s : State) : Bool :=
  !s.input.rst &&
    match s.fsm with
    | .emit => s.input.wrAck && !s.input.wrErr
    | .dwell => s.input.dlyDone && !s.input.dlyErr
    | .uncfg => false
    | .idle => false

/-- The request outstanding in `s` is answered with a failure in this cycle: the move is aborted (R204). -/
def failed (s : State) : Bool :=
  !s.input.rst &&
    match s.fsm with
    | .emit => s.input.wrErr
    | .dwell => s.input.dlyErr
    | .uncfg => false
    | .idle => false

/-- The event of one cycle, read off the output ports (R22): `wr_data` when the write is acknowledged, `dly_us` when the delay ends. -/
def cycleEvents (s : State) : List MoveEvent :=
  if answered s then
    (if (outputs s).wrReq then (outputs s).wrData.toList.map MoveEvent.wrote else []) ++
      (if (outputs s).dlyReq then [MoveEvent.dwelt (outputs s).dlyUs] else [])
  else []

/-- The events of `k` cycles, in order. -/
def events : Nat → State → List MoveEvent
  | 0, _ => []
  | k + 1, s =>
    cycleEvents s ++
      match step s with
      | .next t => events k t
      | .fault _ => []
      | .refused _ => []

/-- How many answers of the platform the move still needs (R169): two for each pattern not yet written, one for a pattern whose
dwell is outstanding. -/
def answersLeft (s : State) : Nat :=
  let passes := 2 * Config.tableLength s.mvMode * (s.remain.toNat - 1)
  let thisPass := 2 * (Config.tableLength s.mvMode - s.idx.toNat)
  match s.fsm with
  | .uncfg => 0
  | .idle => 0
  | .emit => passes + thisPass
  | .dwell => passes + thisPass - 1

end Sys2Proof.Safety
end

