-- ==== Sys2Proof/Certificates/Slice0/Obligations.lean ====
section
/-! DEFINITION. The statements for the provers, from the numbered rules of spec/. Each docstring names the rule it formalises; OBLIGATIONS.json lists them. -/

open Sys2Proof Sys2Proof.Machine Sys2Proof.Safety

/-! ## Encoding (30_encoding.md) -/

/-- Words written out from the encodings of R81 and R82 decode to the commands they stand for, and the vectors of L2-D are illegal. -/
def Obligations.SampleWordsDecode : Prop :=
  decode 0b00000000000000000000000000000001#32 = .command .init ∧
  decode 0b00000000000000000000000000000010#32 = .command .setMode ∧
  decode 0b00000000000000000000000000010011#32 = .command (.step .forward) ∧
  decode 0b00000000000000000000000000110011#32 = .command (.step .reverse) ∧
  decode 0b00000000000000000000000000010100#32 = .command (.rotate .forward) ∧
  decode 0b00000000000000000000000000110100#32 = .command (.rotate .reverse) ∧
  decode 0b00000000000000000000000000000101#32 = .command .setDwell ∧
  decode 0x00000003#32 = .illegal .directionInvalid ∧
  decode 0x00000024#32 = .illegal .directionInvalid ∧
  decode 0x00000011#32 = .illegal .directionNotTaken ∧
  decode 0x00000006#32 = .illegal .unknownOpcode ∧
  decode 0x80000013#32 = .illegal .reservedBits

/-- Decoder and encoder are inverse on the commands, in both directions: a word is a command exactly when it is that command's
own word (R84, R85). -/
def Obligations.DecodeEncodeAgree : Prop :=
  ∀ (w : Word) (i : Instr), decode w = .command i ↔ w = encode i

/-- The spec's inference in R85: the five rows of the opcode map, each legal word in exactly one of them, no illegal word in any, bit 5 the reverse bit,
and the seven legal words. -/
def Obligations.OpcodeMapMatchesDecoder : Prop :=
  (opcodeMap.map fun r => (r.pattern, r.mask)) =
    [(0x00000001#32, 0xFFFFFFFF#32), (0x00000002#32, 0xFFFFFFFF#32), (0x00000013#32, 0xFFFFFFDF#32),
      (0x00000014#32, 0xFFFFFFDF#32), (0x00000005#32, 0xFFFFFFFF#32)] ∧
  ∀ w : Word,
    (∀ i, decode w = .command i →
      i.row ∈ opcodeMap ∧ i.row.matches w = true ∧ ∀ r ∈ opcodeMap, r.matches w = true → r = i.row) ∧
    (∀ x, decode w = .illegal x → ∀ r ∈ opcodeMap, r.matches w = false) ∧
    (∀ d, decode w = .command (.step d) ∨ decode w = .command (.rotate d) → (d = .reverse ↔ w.getLsbD 5 = true)) ∧
    ((∃ i, decode w = .command i) ↔
      w ∈ [0x00000001#32, 0x00000002#32, 0x00000013#32, 0x00000033#32, 0x00000014#32, 0x00000034#32, 0x00000005#32])

/-- R83, R92 and R103: which words are illegal, by their fields, and the sole effect of an accepted one, in UNCFG and in IDLE. -/
def Obligations.IllegalWordsOnlySetErr : Prop :=
  ∀ w : Word,
    ((∃ r, decode w = .illegal r) ↔
      (w.extractLsb' 6 26 ≠ 0#26 ∨
       w.extractLsb' 0 4 = 0x0#4 ∨
       6 ≤ (w.extractLsb' 0 4).toNat ∨
       ((w.extractLsb' 0 4 = 0x1#4 ∨ w.extractLsb' 0 4 = 0x2#4 ∨ w.extractLsb' 0 4 = 0x5#4) ∧ w.extractLsb' 4 2 ≠ 0b00#2) ∨
       ((w.extractLsb' 0 4 = 0x3#4 ∨ w.extractLsb' 0 4 = 0x4#4) ∧
         (w.extractLsb' 4 2 = 0b00#2 ∨ w.extractLsb' 4 2 = 0b10#2)))) ∧
    (∀ (s : State) (r : IllegalReason), decode w = .illegal r → s.fsm = .uncfg ∨ s.fsm = .idle →
      acceptWord w s = .next { s with err := .illegalCommand })

/-- R88: the tag "half" alone selects HALF, no tag makes SET_MODE fail or changes the code INIT reports, a string packs its first
character high, and of all strings, also those too long to be carried, "half" alone selects HALF. -/
def Obligations.ModeTagSelectsHalfOnly : Prop :=
  (∀ t : Word, modeOf t = if t = 0x68616C66#32 then .half else .full) ∧
  (∀ s : State, s.fsm = .idle → ∃ t, exec .setMode s = .next t ∧ t.err = .ok) ∧
  (∀ (s t : State) (tag : Word), s.fsm = .uncfg → exec .init s = .next t →
    ∃ u, exec .init { s with arg1 := tag } = .next u ∧ u.err = t.err) ∧
  (∀ a b c d : Byte,
    packText [a, b, c, d] = a ++ b ++ c ++ d ∧ packText [a, b, c] = a ++ b ++ c ++ 0#8 ∧
    packText [a, b] = a ++ b ++ 0#8 ++ 0#8 ∧ packText [a] = a ++ 0#8 ++ 0#8 ++ 0#8 ∧ packText [] = 0#32) ∧
  packText [0x68#8, 0x61#8, 0x6C#8, 0x66#8] = 0x68616C66#32 ∧
  (∀ chars : List Byte, modeOf (packText chars) = .half ↔ chars = [0x68#8, 0x61#8, 0x6C#8, 0x66#8])

/-! ## The configuration family (40_config.md) -/

/-- R111 and R112: the checks of INIT in their order, what a failed INIT leaves, and what a successful one writes; each next state is
written in full, so that every field not named keeps its value. -/
def Obligations.InitChecksThenConfigures : Prop :=
  ∀ s : State,
    (s.fsm = .idle → exec .init s = .next { s with err := .alreadyConfigured }) ∧
    (s.fsm = .uncfg →
      ((∃ k < 4, lineClaimable s.input.claimable (s.arg0.extractLsb' (8 * k) 8) = false) ∨
       (∃ j k, j < k ∧ k < 4 ∧ s.arg0.extractLsb' (8 * j) 8 = s.arg0.extractLsb' (8 * k) 8)) →
      exec .init s = .next { s with err := .configurationError }) ∧
    (s.fsm = .uncfg →
      (∀ k < 4, lineClaimable s.input.claimable (s.arg0.extractLsb' (8 * k) 8) = true) →
      (∀ j k, j < k → k < 4 → s.arg0.extractLsb' (8 * j) 8 ≠ s.arg0.extractLsb' (8 * k) 8) →
      (s.arg2.toInt ≤ 0 → exec .init s = .next { s with err := .invalidArgument }) ∧
      (0 < s.arg2.toInt →
        ∃ t, exec .init s = .next t ∧ (t.input.rst = false → (outputs t).lineEn = true) ∧
          t = { s with
                lines := s.arg0
                mode  := if s.arg1 = 0x68616C66#32 then .half else .full
                dwell := s.arg2
                coil  := 0b0000#4
                fsm   := .idle
                err   := .ok }))

/-- R120: SET_MODE in IDLE writes MODE and ERR, for every tag; the next move, STEP's or ROTATE's, latches the new MODE, and ROTATE counts
its passes by it. -/
def Obligations.SetModeSelectsTable : Prop :=
  ∀ s : State, s.fsm = .idle →
    exec .setMode s = .next { s with mode := if s.arg0 = 0x68616C66#32 then .half else .full, err := .ok } ∧
    (∀ (t u : State) (d : Direction) (v : Word), exec .setMode s = .next t →
      exec (.step d) { t with arg0 := v } = .next u ∨ exec (.rotate d) { t with arg0 := v } = .next u →
      u.busy = true → u.mvMode = if s.arg0 = 0x68616C66#32 then .half else .full) ∧
    (∀ (t u : State) (d : Direction) (v : Word), exec .setMode s = .next t →
      exec (.rotate d) { t with arg0 := v } = .next u → u.busy = true →
      (u.remain.toNat : Int) = v.toInt.tdiv (if s.arg0 = 0x68616C66#32 then 5760 else 11520))

/-- The spec's inference in R121 (a): a second SET_MODE with the same tag, or with another tag that gives the same mode, changes nothing, and
neither command changes the fields of the last move. -/
def Obligations.SetModeIsIdempotent : Prop :=
  ∀ s t : State, s.fsm = .idle → exec .setMode s = .next t →
    exec .setMode t = .next t ∧
    (∀ v : Word, modeOf v = modeOf s.arg0 → exec .setMode { t with arg0 := v } = .next { t with arg0 := v }) ∧
    t.mvMode = s.mvMode ∧ t.mvDir = s.mvDir ∧ t.remain = s.remain ∧ t.idx = s.idx

/-- R130: SET_DWELL in IDLE stores a positive dwell and refuses any other; every delay is requested with the stored dwell; and no
cycle of a move, whatever the host writes in it, changes the dwell. -/
def Obligations.SetDwellStoresPositiveDwell : Prop :=
  ∀ s : State,
    (s.fsm = .idle → 0 < s.arg0.toInt → exec .setDwell s = .next { s with dwell := s.arg0, err := .ok }) ∧
    (s.fsm = .idle → s.arg0.toInt ≤ 0 → exec .setDwell s = .next { s with err := .invalidArgument }) ∧
    (s.input.rst = false → (outputs s).dlyUs = s.dwell) ∧
    (∀ t, s.busy = true → s.input.rst = false → step s = .next t → t.dwell = s.dwell)

/-- R102: before a successful INIT every other command has the sole effect of reporting it. -/
def Obligations.CommandsBeforeInitAreRefused : Prop :=
  ∀ (i : Instr) (s : State), i ≠ .init → s.fsm = .uncfg → exec i s = .next { s with err := .notConfigured }

/-! ## The motion family (41_motion.md) -/

/-- From R145, at acceptance: STEP in IDLE starts a move of `sint32(ARG0)` passes in the current mode, or is a zero-length move. -/
def Obligations.StepStartsMove : Prop :=
  ∀ (d : Direction) (s : State), s.fsm = .idle →
    (0 < s.arg0.toInt →
      exec (.step d) s = .next { s with
        mvMode := s.mode, mvDir := d, remain := s.arg0, idx := 0#3, err := .ok, fsm := .emit }) ∧
    (s.arg0.toInt ≤ 0 → exec (.step d) s = .next { s with err := .ok })

/-- R152: ROTATE in IDLE is a STEP of `n` passes, `n` being the degrees operand divided toward zero by 11520 (FULL) or 5760 (HALF). -/
def Obligations.RotateStartsMove : Prop :=
  ∀ (d : Direction) (s : State) (n : Int), s.fsm = .idle →
    n = (match s.mode with | .full => s.arg0.toInt.tdiv 11520 | .half => s.arg0.toInt.tdiv 5760) →
    (0 < n →
      ∃ t, exec (.rotate d) s = .next t ∧ (t.remain.toNat : Int) = n ∧
        t = { s with mvMode := s.mode, mvDir := d, remain := t.remain, idx := 0#3, err := .ok, fsm := .emit }) ∧
    (n ≤ 0 → exec (.rotate d) s = .next { s with err := .ok })

/-- R151: the divisors 11520 and 5760 give the source's formula exactly, the intermediate product fits in 45 signed bits, and
stepsNeeded lies in -372827 .. 372827. -/
def Obligations.RotateCountIsExact : Prop :=
  ∀ (m : Mode) (w : Word),
    Config.stepsPerRevolution m = (if Config.tableLength m = 4 then 2048 else 4096) ∧
    rotatePasses m w = (w.toInt * Config.stepsPerRevolution m).tdiv (360 * 65536) ∧
    rotatePasses m w = (match m with | .full => w.toInt.tdiv 11520 | .half => w.toInt.tdiv 5760) ∧
    -2 ^ 44 ≤ w.toInt * Config.stepsPerRevolution m ∧ w.toInt * Config.stepsPerRevolution m < 2 ^ 44 ∧
    -372827 ≤ rotatePasses m w ∧ rotatePasses m w ≤ 372827

/-! ## Every command -/

/-- From R55 and R100: a command presented during a move is held: it has no effect. -/
def Obligations.CommandIsHeldDuringMove : Prop :=
  ∀ (i : Instr) (s : State), s.fsm = .emit ∨ s.fsm = .dwell → exec i s = .next s

/-- R101: every accepted word writes ERR whatever it held before; a failing one changes nothing else; one that starts a move
writes OK. -/
def Obligations.AcceptedCommandReportsOnce : Prop :=
  ∀ (w : Word) (s t : State), s.fsm = .uncfg ∨ s.fsm = .idle → acceptWord w s = .next t →
    (t.err ≠ .ok → t = { s with err := t.err }) ∧
    (t.busy = true → t.err = .ok) ∧
    (∀ e : ErrCode, acceptWord w { s with err := e } = .next t)

/-- The frames of the five commands, in every state: the fields each command's rule names as written are the only ones that can
differ (R111, R120, R130, R145, R152). -/
def Obligations.CommandFrames : Prop :=
  ∀ (s t : State) (d : Direction),
    (exec .init s = .next t →
      t = { s with lines := t.lines, mode := t.mode, dwell := t.dwell, coil := t.coil, fsm := t.fsm, err := t.err }) ∧
    (exec .setMode s = .next t → t = { s with mode := t.mode, err := t.err }) ∧
    (exec .setDwell s = .next t → t = { s with dwell := t.dwell, err := t.err }) ∧
    (exec (.step d) s = .next t ∨ exec (.rotate d) s = .next t →
      t = { s with
            mvMode := t.mvMode, mvDir := t.mvDir, remain := t.remain, idx := t.idx, err := t.err, fsm := t.fsm })

/-- The frames as the host reads them: every register word but STATUS and the words the command writes reads as before. -/
def Obligations.RegisterWordsFrame : Prop :=
  ∀ (s t : State) (d : Direction) (a : BitVec 4), a ≠ 4#4 →
    (exec .init s = .next t → a ≠ 5#4 → a ≠ 6#4 → a ≠ 7#4 → readValue t a = readValue s a) ∧
    (exec .setMode s = .next t → readValue t a = readValue s a) ∧
    (exec .setDwell s = .next t → a ≠ 6#4 → readValue t a = readValue s a) ∧
    (exec (.step d) s = .next t ∨ exec (.rotate d) s = .next t → a ≠ 8#4 → readValue t a = readValue s a)

/-- The STATUS bits each command leaves unchanged (R53): INIT all but FSM, BUSY, CFG, MODE and ERR; SET_MODE all but MODE and ERR; SET_DWELL
all but ERR; STEP and ROTATE leave MODE, CFG and the zero bits. -/
def Obligations.StatusBitsFrame : Prop :=
  ∀ (s t : State) (d : Direction) (b : Nat),
    (exec .init s = .next t → 4 < b → ¬ (8 ≤ b ∧ b ≤ 11) → (statusWord t).getLsbD b = (statusWord s).getLsbD b) ∧
    (exec .setMode s = .next t → b ≠ 4 → ¬ (8 ≤ b ∧ b ≤ 11) → (statusWord t).getLsbD b = (statusWord s).getLsbD b) ∧
    (exec .setDwell s = .next t → ¬ (8 ≤ b ∧ b ≤ 11) → (statusWord t).getLsbD b = (statusWord s).getLsbD b) ∧
    (exec (.step d) s = .next t ∨ exec (.rotate d) s = .next t →
      2 < b → ¬ (8 ≤ b ∧ b ≤ 16) → (statusWord t).getLsbD b = (statusWord s).getLsbD b)

/-- From R86: an operand register a command does not read has no effect on it. -/
def Obligations.UnreadOperandsHaveNoEffect : Prop :=
  ∀ (s : State) (x y : Word) (i : Instr), i ≠ .init →
    exec i { s with arg1 := x, arg2 := y } =
      chain (exec i s) fun t => .next { t with arg1 := x, arg2 := y }

/-! ## The step and the bus (20_memory.md) -/

/-- A step runs the decoded command: a CMD write presented outside a move is performed, and the step is exec of the decoded command
with this cycle's inputs used up (R100); an illegal word only sets ERR (R103); during a move the write is held and the step is the FSM
progress alone (R55). `withFetchWord` presents such a write. -/
def Obligations.StepRunsDecodedCommand : Prop :=
  (∀ s : State, s.input.rst = false → s.input.busValid = true → s.input.busWrite = true → s.input.busAddr = 0#4 →
    (∀ i, s.busy = false → decode s.input.busWdata = .command i →
      step s = chain (exec i s) fun t => .next { t with inputs := t.inputs.tail, cycle := t.cycle + 1 }) ∧
    (∀ r, s.busy = false → decode s.input.busWdata = .illegal r →
      step s = .next { s with err := .illegalCommand, inputs := s.inputs.tail, cycle := s.cycle + 1 }) ∧
    (s.busy = true →
      step s = chain (fsmProgress s.input s s) fun t => .next { t with inputs := t.inputs.tail, cycle := t.cycle + 1 })) ∧
  (∀ (s : State) (w : Nat) (i : Instr), s.busy = false → decodeTableWord 32 w = some i →
    step (s.withFetchWord 32 w) =
      chain (exec i (s.withFetchWord 32 w)) fun t => .next { t with inputs := t.inputs.tail, cycle := t.cycle + 1 })

/-- R51: what each of the 16 words reads as, and what a write to each does. -/
def Obligations.RegisterMapReadsAndWrites : Prop :=
  ∀ (s : State) (v : Word),
    (readValue s 0#4 = 0x00000000#32 ∧ readValue s 1#4 = s.arg0 ∧ readValue s 2#4 = s.arg1 ∧ readValue s 3#4 = s.arg2 ∧
      readValue s 4#4 = statusWord s ∧ readValue s 5#4 = s.coil.setWidth 32 ∧ readValue s 6#4 = s.dwell ∧
      readValue s 7#4 = s.lines ∧ readValue s 8#4 = s.remain) ∧
    (∀ a : BitVec 4, 9 ≤ a.toNat → readValue s a = 0x00000000#32) ∧
    busWrite 0#4 v s = acceptWord v s ∧
    busWrite 1#4 v s = .next { s with arg0 := v } ∧
    busWrite 2#4 v s = .next { s with arg1 := v } ∧
    busWrite 3#4 v s = .next { s with arg2 := v } ∧
    (∀ a : BitVec 4, 4 ≤ a.toNat → busWrite a v s = .next s)

/-- R53: every bit of STATUS, with the encodings of FSM (R20) and of ERR (R200), and a write to STATUS is ignored. -/
def Obligations.StatusLayout : Prop :=
  (Fsm.bits .uncfg = 0b00#2 ∧ Fsm.bits .idle = 0b01#2 ∧ Fsm.bits .emit = 0b10#2 ∧ Fsm.bits .dwell = 0b11#2) ∧
  (ErrCode.bits .ok = 0#4 ∧ ErrCode.bits .configurationError = 1#4 ∧ ErrCode.bits .invalidArgument = 2#4 ∧
    ErrCode.bits .platformIoError = 3#4 ∧ ErrCode.bits .illegalCommand = 4#4 ∧ ErrCode.bits .notConfigured = 5#4 ∧
    ErrCode.bits .alreadyConfigured = 6#4) ∧
  ∀ s : State,
    (statusWord s).extractLsb' 0 2 = s.fsm.bits ∧
    (statusWord s).getLsbD 2 = s.fsm.bits.getLsbD 1 ∧
    (statusWord s).getLsbD 3 = decide (s.fsm ≠ .uncfg) ∧
    (statusWord s).getLsbD 4 = decide (s.mode = .half) ∧
    (statusWord s).extractLsb' 5 3 = 0#3 ∧
    (statusWord s).extractLsb' 8 4 = s.err.bits ∧
    (statusWord s).extractLsb' 12 3 = s.idx ∧
    (statusWord s).getLsbD 15 = decide (s.mvDir = .reverse) ∧
    (statusWord s).getLsbD 16 = decide (s.mvMode = .half) ∧
    (statusWord s).extractLsb' 17 15 = 0#15 ∧
    (∀ v : Word, busWrite 4#4 v s = .next s)

/-- From R55: when an access is performed, which is exactly when it is presented and `bus_ready` is 1, and that one which is not performed has
no effect. The value of `bus_ready` in a cycle that presents nothing is R55's, which R167 gives otherwise: the model's choice, log entry 7.
The last clause is the formula of R167: it lets the same accesses through. -/
def Obligations.BusHoldsOnlyCmdDuringMove : Prop :=
  ∀ (s : State) (inp : CycleIn),
    (inp.rst = false → inp.busValid = true →
      busReady inp s = !(inp.busWrite && (inp.busAddr == 0#4) && s.fsm.bits.getLsbD 1)) ∧
    (inp.rst = true → busReady inp s = false ∧ hostAccess inp s = .next s) ∧
    (inp.rst = false → inp.busValid = false → busReady inp s = true ∧ hostAccess inp s = .next s) ∧
    (busReady inp s = false → hostAccess inp s = .next s) ∧
    (inp.busValid = true → busReady inp s = true →
      hostAccess inp s = if inp.busWrite = true then busWrite inp.busAddr inp.busWdata s else .next s) ∧
    (inp.rst = false →
      accessPerformed inp s = (inp.busValid && !(inp.busWrite && (inp.busAddr == 0#4) && s.fsm.bits.getLsbD 1)))

/-- R56: a read returns the value of the state before the edge and changes nothing: the step is the one without the access. -/
def Obligations.ReadsChangeNothing : Prop :=
  ∀ (s : State) (inp : CycleIn) (rest : List CycleIn), inp.busWrite = false →
    step { s with inputs := inp :: rest } = step { s with inputs := { inp with busValid := false } :: rest } ∧
    (inp.rst = false →
      (outputs { s with inputs := inp :: rest }).busRdata = some (readValue s inp.busAddr))

/-- From R24 and R57: outside reset an operand register changes only by a host write to its own word, in every FSM state. -/
def Obligations.OperandsWrittenOnlyByHost : Prop :=
  ∀ s t : State, s.input.rst = false → step s = .next t →
    t.arg0 = (if s.input.busValid = true ∧ s.input.busWrite = true ∧ s.input.busAddr = 1#4 then s.input.busWdata else s.arg0) ∧
    t.arg1 = (if s.input.busValid = true ∧ s.input.busWrite = true ∧ s.input.busAddr = 2#4 then s.input.busWdata else s.arg1) ∧
    t.arg2 = (if s.input.busValid = true ∧ s.input.busWrite = true ∧ s.input.busAddr = 3#4 then s.input.busWdata else s.arg2)

/-- From R24 and R67: in a cycle that accepts no command the values of ARG0..ARG2 influence no other field. -/
def Obligations.OperandsReadOnlyAtAcceptance : Prop :=
  ∀ (s t : State) (x y z : Word),
    ¬ (s.input.busValid = true ∧ s.input.busWrite = true ∧ s.input.busAddr = 0#4 ∧ s.busy = false) →
    step s = .next t →
    ∃ t', step { s with arg0 := x, arg1 := y, arg2 := z } = .next t' ∧
      t' = { t with arg0 := t'.arg0, arg1 := t'.arg1, arg2 := t'.arg2 }

/-! ## The indexer and the coil driver (41_motion.md) -/

/-- From R140, R141 and R142, with the spec's inference in R143: the indexer gives element `k` of the traversal order, reverse is the exact reverse of forward, and outside
the table there is no value. -/
def Obligations.IndexerFollowsTraversalOrder : Prop :=
  ∀ (t : PatternTables) (m : Mode) (d : Direction) (k : Nat),
    (k < Config.tableLength m →
      (pat t m d k).isSome = true ∧ pat t m d k = (traversalOrder t m d)[k]? ∧
      pat t m .forward k = (tableOf t m)[k]? ∧
      pat t m .reverse k = pat t m .forward (Config.tableLength m - 1 - k)) ∧
    (Config.tableLength m ≤ k → pat t m d k = none)

/-- From R31: with tables the spec allows, every pattern the indexer gives energises 1 or 2 coils, and neighbours in a HALF traversal
energise 3 together. -/
def Obligations.PatternsEnergiseOneOrTwoCoils : Prop :=
  ∀ (t : PatternTables) (m : Mode) (d : Direction) (k : Nat) (p q : Pattern), t.legal = true →
    (pat t m d k = some p → 1 ≤ popcount p ∧ popcount p ≤ 2) ∧
    (m = .half → pat t m d k = some p → pat t m d (k + 1) = some q → popcount p + popcount q = 3)

/-- From R161, R163 and R166: the platform requests of each FSM state. -/
def Obligations.PlatformRequestsFollowFsm : Prop :=
  ∀ s : State, s.input.rst = false →
    (s.fsm = .emit → (outputs s).wrReq = true ∧ (outputs s).dlyReq = false ∧
      (outputs s).wrData = pat s.tables s.mvMode s.mvDir s.idx.toNat) ∧
    (s.fsm = .dwell → (outputs s).wrReq = false ∧ (outputs s).dlyReq = true ∧ (outputs s).dlyUs = s.dwell) ∧
    (s.busy = false → (outputs s).wrReq = false ∧ (outputs s).dlyReq = false)

/-- R162 with its frame: one cycle in EMIT, whatever the host does in it. -/
def Obligations.EmitCycle : Prop :=
  ∀ (s : State) (p : Pattern), s.fsm = .emit → s.input.rst = false →
    pat s.tables s.mvMode s.mvDir s.idx.toNat = some p →
    ∃ t, step s = .next t ∧
      (s.input.wrErr = true → t.fsm = .idle ∧ t.err = .platformIoError ∧ t.coil = s.coil) ∧
      (s.input.wrErr = false → s.input.wrAck = true → t.fsm = .dwell ∧ t.coil = p ∧ t.err = s.err) ∧
      (s.input.wrErr = false → s.input.wrAck = false → t.fsm = .emit ∧ t.coil = s.coil ∧ t.err = s.err) ∧
      t.idx = s.idx ∧ t.remain = s.remain ∧ t.mvDir = s.mvDir ∧ t.mvMode = s.mvMode ∧
      t.mode = s.mode ∧ t.dwell = s.dwell ∧ t.lines = s.lines ∧ t.tables = s.tables

/-- R163 and R164 with their frame: an acknowledged write is followed by DWELL; the outputs of a cycle in DWELL and its progress, whatever
the host does in it. -/
def Obligations.DwellCycle : Prop :=
  (∀ s t : State, s.fsm = .emit → s.input.rst = false → s.input.wrErr = false → s.input.wrAck = true →
    step s = .next t → t.fsm = .dwell) ∧
  ∀ s : State, s.fsm = .dwell → s.input.rst = false →
    (outputs s).dlyReq = true ∧ (outputs s).dlyUs = s.dwell ∧ (outputs s).wrReq = false ∧
    ∃ t, step s = .next t ∧
      (s.input.dlyErr = true →
        t.fsm = .idle ∧ t.err = .platformIoError ∧ t.idx = s.idx ∧ t.remain = s.remain) ∧
      (s.input.dlyErr = false → s.input.dlyDone = true → t.err = s.err ∧
        (s.idx.toNat < Config.tableLength s.mvMode - 1 →
          t.fsm = .emit ∧ t.idx.toNat = s.idx.toNat + 1 ∧ t.remain = s.remain) ∧
        (¬ s.idx.toNat < Config.tableLength s.mvMode - 1 → 1 < s.remain.toNat →
          t.fsm = .emit ∧ t.idx = 0#3 ∧ t.remain.toNat = s.remain.toNat - 1) ∧
        (¬ s.idx.toNat < Config.tableLength s.mvMode - 1 → s.remain.toNat ≤ 1 →
          t.fsm = .idle ∧ t.idx = 0#3 ∧ t.remain = 0#32)) ∧
      (s.input.dlyErr = false → s.input.dlyDone = false →
        t.fsm = .dwell ∧ t.idx = s.idx ∧ t.remain = s.remain ∧ t.err = s.err) ∧
      t.coil = s.coil ∧ t.mvDir = s.mvDir ∧ t.mvMode = s.mvMode ∧ t.mode = s.mode ∧ t.dwell = s.dwell ∧
      t.lines = s.lines ∧ t.tables = s.tables

/-- R204: an abort, from a failed write or a failed delay, returns to IDLE, reports PLATFORM_IO_ERROR and keeps the rest (a host write to an
operand register in the same cycle is the host's own); no further write of the move is requested, and a later STEP or ROTATE starts at
index 0. -/
def Obligations.AbortKeepsFailurePoint : Prop :=
  ∀ s t : State, s.input.rst = false →
    (s.fsm = .emit ∧ s.input.wrErr = true) ∨ (s.fsm = .dwell ∧ s.input.dlyErr = true) →
    step s = .next t →
    t = { s with
          fsm := .idle, err := .platformIoError, arg0 := t.arg0, arg1 := t.arg1, arg2 := t.arg2
          inputs := s.inputs.tail, cycle := s.cycle + 1 } ∧
    (outputs t).wrReq = false ∧
    (∀ (d : Direction) (v : Word) (u : State),
      exec (.step d) { t with arg0 := v } = .next u ∨ exec (.rotate d) { t with arg0 := v } = .next u →
      u.busy = true → u.idx = 0#3)

/-- R166: in UNCFG and IDLE nothing is requested of the platform and its answers change no state. -/
def Obligations.AnswersIgnoredOutsideMove : Prop :=
  ∀ (s : State) (inp : CycleIn) (rest : List CycleIn) (a b c d : Bool), s.fsm = .uncfg ∨ s.fsm = .idle →
    (outputs s).wrReq = false ∧ (outputs s).dlyReq = false ∧
    step { s with inputs := inp :: rest } =
      step { s with inputs := { inp with wrAck := a, wrErr := b, dlyDone := c, dlyErr := d } :: rest }

/-- From R69, R162 to R164 and the separation of delays that the spec itself infers in R34: the two requests never stand together; a request
that is answered is withdrawn in the next cycle; outside reset an acknowledged write is followed at once by a delay request, an ended delay by a
write request or the end of the move, and a failed one by the end of the move; and under the platform contract every answer is the answer to a
standing request (R33, R34, R244). -/
def Obligations.RequestsAlternate : Prop :=
  ∀ s t : State, s.input.rst = false → step s = .next t →
    ¬ ((outputs s).wrReq = true ∧ (outputs s).dlyReq = true) ∧
    (answered s = true ∨ failed s = true →
      ((outputs s).wrReq = true → (outputs t).wrReq = false) ∧ ((outputs s).dlyReq = true → (outputs t).dlyReq = false)) ∧
    (answered s = true → (outputs s).wrReq = true → t.input.rst = false → (outputs t).dlyReq = true) ∧
    (answered s = true → (outputs s).dlyReq = true → t.input.rst = false →
      (outputs t).wrReq = true ∨ (t.fsm = .idle ∧ t.remain = 0#32)) ∧
    (failed s = true → t.fsm = .idle ∧ (outputs t).wrReq = false ∧ (outputs t).dlyReq = false) ∧
    (AnswersLegal s →
      ((s.input.wrAck = true ∨ s.input.wrErr = true ∨ s.input.dlyDone = true ∨ s.input.dlyErr = true) ↔
        (answered s = true ∨ failed s = true)))

/-! ## Reset and invariants (70_reset_and_hazards.md, 10_state.md) -/

/-- R230: a cycle with `rst = 1` performs no access, requests nothing and gives every field its reset value, from every state and
whatever the other inputs are; the tables are not affected. -/
def Obligations.ResetOverridesEverything : Prop :=
  ∀ s : State, s.input.rst = true →
    (outputs s).busReady = false ∧ (outputs s).wrReq = false ∧ (outputs s).dlyReq = false ∧
    step s = .next
      { fsm := .uncfg, arg0 := 0#32, arg1 := 0#32, arg2 := 0#32, mode := .full, dwell := 1000#32, lines := 0#32,
        coil := 0b0000#4, err := .ok, idx := 0#3, mvDir := .forward, mvMode := .full, remain := 0#32,
        tables := s.tables, inputs := s.inputs.tail, cycle := s.cycle + 1 }

/-- The reset column of R20 holds of State.reset. -/
def Obligations.ResetStateValues : Prop :=
  State.reset.fsm = .uncfg ∧ State.reset.arg0 = 0#32 ∧ State.reset.arg1 = 0#32 ∧ State.reset.arg2 = 0#32 ∧
  State.reset.mode = .full ∧ State.reset.dwell = 0x000003E8#32 ∧ State.reset.lines = 0#32 ∧ State.reset.coil = 0#4 ∧
  State.reset.err = .ok ∧ State.reset.idx = 0#3 ∧ State.reset.mvDir = .forward ∧ State.reset.mvMode = .full ∧
  State.reset.remain = 0#32

/-- R40 (the spec's inference) and the model's own strengthening of it (log entry 9) hold in the state after reset. -/
def Obligations.InvariantsAtReset : Prop :=
  StatedInvariant State.reset ∧ EngineInvariant State.reset

/-- R40 (the spec's inference): every cycle keeps its four invariants, from every state that has them and under every input. -/
def Obligations.StatedInvariantIsKept : Prop :=
  ∀ s t : State, StatedInvariant s → step s = .next t → StatedInvariant t

/-- Every cycle keeps the strengthened invariant, the model's own inference (log entry 9): the index always lies in the latched table, a pass count is at most `2^31 - 1`, ERR
reads OK during a move (R242), and the tables stay as R31 allows them. -/
def Obligations.EngineInvariantIsKept : Prop :=
  ∀ s t : State, EngineInvariant s → step s = .next t → EngineInvariant t

/-- The spec's inference in R167, that the cycle function is total: from a state that meets R40 no cycle stops, whatever its inputs. -/
def Obligations.NoCycleStopsUnderInvariant : Prop :=
  ∀ s : State, StatedInvariant s → ∃ t, step s = .next t

/-- From the last sentence of R142, which asks a model to fault there (log entry 6): a cycle stops exactly in EMIT with an index outside the latched table, and then with that fault. -/
def Obligations.FaultExactlyOutsideTable : Prop :=
  ∀ s : State,
    (∀ r, step s = .fault r ↔
      (r = .indexOutsideTable ∧ s.input.rst = false ∧ s.fsm = .emit ∧ Config.tableLength s.mvMode ≤ s.idx.toNat)) ∧
    (∀ r, step s ≠ .refused r)

/-- Every state reached from RESET_STATE, under any allowed tables and any inputs, meets R40, and its next cycle does not stop. -/
def Obligations.ReachableStatesMeetInvariant : Prop :=
  ∀ s : State, Reachable s → StatedInvariant s ∧ ∃ t, step s = .next t

/-! ## Who writes what (the whole-machine rules of 10_state.md) -/

/-- R23: MODE changes only by SET_MODE, by INIT and by reset. -/
def Obligations.ModeWrittenOnlyBySetModeAndInit : Prop :=
  ∀ s t : State, step s = .next t → t.mode ≠ s.mode →
    s.input.rst = true ∨ CommandIssued .setMode s ∨ (CommandIssued .init s ∧ t.err = .ok)

/-- The writers of DWELL and LINES (R28, R29): a successful INIT, for DWELL also a successful SET_DWELL, and reset; so the line
identities are fixed while the block is configured. -/
def Obligations.ConfigurationWriters : Prop :=
  ∀ s t : State, step s = .next t →
    (t.dwell ≠ s.dwell →
      s.input.rst = true ∨ (CommandIssued .setDwell s ∧ t.err = .ok) ∨ (CommandIssued .init s ∧ t.err = .ok)) ∧
    (t.lines ≠ s.lines → s.input.rst = true ∨ (CommandIssued .init s ∧ s.fsm = .uncfg ∧ t.err = .ok)) ∧
    (s.configured = true → s.input.rst = false → t.lines = s.lines)

/-- R30: COIL changes only by an acknowledged write, which sets it to the requested pattern, by a successful INIT and by reset, which set it
to 0; in particular the end of a move and an abort leave it. -/
def Obligations.CoilWriters : Prop :=
  ∀ s t : State, step s = .next t → t.coil ≠ s.coil →
    (s.input.rst = true ∧ t.coil = 0b0000#4) ∨
    (CommandIssued .init s ∧ s.fsm = .uncfg ∧ t.err = .ok ∧ t.coil = 0b0000#4) ∨
    (s.fsm = .emit ∧ s.input.wrAck = true ∧ s.input.wrErr = false ∧ t.fsm = .dwell ∧
      some t.coil = pat s.tables s.mvMode s.mvDir s.idx.toNat)

/-- A configuration lifetime begins with a successful INIT and ends only with reset (R21, R233). -/
def Obligations.LifetimeFromInitToReset : Prop :=
  ∀ s t : State, step s = .next t →
    (s.fsm = .uncfg → t.fsm ≠ .uncfg → CommandIssued .init s ∧ t.fsm = .idle ∧ t.err = .ok) ∧
    (s.fsm ≠ .uncfg → t.fsm = .uncfg → s.input.rst = true)

/-! ## Whole moves (41_motion.md R146, R168, R169) -/

/-- The spec's inferences in R146 and R168: a move that ends without an abort has acknowledged exactly `n * L` writes, write `j` carrying
`pat(m, d, j mod L)`, each followed by exactly one delay of DWELL microseconds that ended, including the last; afterwards COIL is the
last pattern of the traversal order. `s` is the state just after acceptance, `k` the number of cycles until BUSY first reads 0. -/
def Obligations.MoveEmitsEveryPattern : Prop :=
  ∀ (k : Nat) (s t : State), s.fsm = .emit → s.idx = 0#3 → 1 ≤ s.remain.toNat →
    runCycles k s = .next t →
    (∀ j < k, ∀ u, runCycles j s = .next u → u.busy = true ∧ u.input.rst = false) →
    t.busy = false → t.err = .ok →
    events k s =
      (List.range (s.remain.toNat * Config.tableLength s.mvMode)).flatMap (fun j =>
        (pat s.tables s.mvMode s.mvDir (j % Config.tableLength s.mvMode)).toList.map MoveEvent.wrote ++
          [MoveEvent.dwelt s.dwell]) ∧
    some t.coil = pat s.tables s.mvMode s.mvDir (Config.tableLength s.mvMode - 1) ∧
    t.fsm = .idle ∧ t.idx = 0#3 ∧ t.remain = 0#32 ∧ t.mvDir = s.mvDir ∧ t.mvMode = s.mvMode

/-- The spec's inference in R169: a STEP or a ROTATE of `n` passes needs `2 * n * L` answers; each cycle of a move uses exactly the answer it gets; the move goes on while
answers are left, unless it is aborted. -/
def Obligations.EachAnswerMovesOneState : Prop :=
  (∀ (d : Direction) (s t : State), s.fsm = .idle → 0 < s.arg0.toInt → exec (.step d) s = .next t →
    (answersLeft t : Int) = 2 * s.arg0.toInt * Config.tableLength s.mode) ∧
  (∀ (d : Direction) (s t : State), s.fsm = .idle → 0 < rotatePasses s.mode s.arg0 → exec (.rotate d) s = .next t →
    (answersLeft t : Int) = 2 * rotatePasses s.mode s.arg0 * Config.tableLength s.mode) ∧
  (∀ s t : State, StatedInvariant s → s.busy = true → s.input.rst = false → step s = .next t →
    (failed s = false → answersLeft s = answersLeft t + (if answered s = true then 1 else 0)) ∧
    (failed s = false → (t.busy = true ↔ answersLeft t ≠ 0)) ∧
    (failed s = true → t.busy = false))

/-- The spec's inference in R169: while the platform answers nothing and reset stays low, the engine stays in its state, nothing of the move or of the configuration
changes, the same request stands with the same `wr_data` and `dly_us`, and every CMD write stays held. -/
def Obligations.UnansweredRequestHoldsForever : Prop :=
  ∀ (k : Nat) (s t : State), StatedInvariant s → s.busy = true → runCycles k s = .next t →
    (∀ j < k, ∀ u, runCycles j s = .next u →
      u.input.rst = false ∧ u.input.wrAck = false ∧ u.input.wrErr = false ∧ u.input.dlyDone = false ∧ u.input.dlyErr = false) →
    t.fsm = s.fsm ∧ t.idx = s.idx ∧ t.remain = s.remain ∧ t.coil = s.coil ∧ t.err = s.err ∧ t.mode = s.mode ∧
    t.mvDir = s.mvDir ∧ t.mvMode = s.mvMode ∧ t.dwell = s.dwell ∧ t.lines = s.lines ∧ t.tables = s.tables ∧
    (t.input.rst = false →
      (outputs t).wrReq = (outputs s).wrReq ∧ (outputs t).dlyReq = (outputs s).dlyReq ∧
      (outputs t).wrData = (outputs s).wrData ∧ (outputs t).dlyUs = (outputs s).dlyUs) ∧
    (∀ (inp : CycleIn) (v : Word), busReady (inp.request true 0#4 v) t = false)

/-- From R55 and R65: a CMD write presented during a move by a host that keeps a held request stable is performed, with the same word, in the
first cycle in which the move is over, unless that cycle is a reset. -/
def Obligations.HeldCommandRunsAfterMove : Prop :=
  ∀ (k : Nat) (s t : State), s.input.busValid = true → s.input.busWrite = true → s.input.busAddr = 0#4 →
    runCycles k s = .next t →
    (∀ j < k, ∀ u v, runCycles j s = .next u → runCycles (j + 1) s = .next v →
      u.busy = true ∧ u.input.rst = false ∧ HostHolds u v) →
    t.busy = false → t.input.rst = false →
    accessPerformed t.input t = true ∧ t.input.busWrite = true ∧ t.input.busAddr = 0#4 ∧
      t.input.busWdata = s.input.busWdata

/-! ## The host program (30_encoding.md R94, R95) -/

/-- From R94: the bus triple of each kind of line, and the command words its mnemonics stand for. -/
def Obligations.HostLinesAsTriples : Prop :=
  (∀ (r : RegName) (v : HostValue), (HostOp.wr r v).triple = (true, r.index, some v.word)) ∧
  (∀ r : RegName, (HostOp.rd r).triple = (false, r.index, none)) ∧
  HostOp.waitIdle.triple = (false, 4#4, none) ∧
  (HostOp.command .init).triple = (true, 0#4, some 0x00000001#32) ∧
  (HostOp.command .setMode).triple = (true, 0#4, some 0x00000002#32) ∧
  (HostOp.command (.step .forward)).triple = (true, 0#4, some 0x00000013#32) ∧
  (HostOp.command (.step .reverse)).triple = (true, 0#4, some 0x00000033#32) ∧
  (HostOp.command (.rotate .forward)).triple = (true, 0#4, some 0x00000014#32) ∧
  (HostOp.command (.rotate .reverse)).triple = (true, 0#4, some 0x00000034#32) ∧
  (HostOp.command .setDwell).triple = (true, 0#4, some 0x00000005#32) ∧
  [RegName.cmd.index, RegName.arg0.index, RegName.arg1.index, RegName.arg2.index, RegName.status.index,
    RegName.coil.index, RegName.dwell.index, RegName.lines.index, RegName.remain.index] =
    [0#4, 1#4, 2#4, 3#4, 4#4, 5#4, 6#4, 7#4, 8#4] ∧
  (∀ i : BitVec 4, (RegName.word i).index = i)

/-- From R95: the expansions of the pseudo-instructions, as bus triples, with each default of the source left out or given; a well-formed one
expands to well-formed lines (R94). -/
def Obligations.PseudoInstructionsExpand : Prop :=
  (∀ l1 l2 l3 l4 : Byte,
    (HostCall.initializeCall l1 l2 l3 l4 none none).expand.map HostOp.triple =
      [(true, 1#4, some (l4 ++ l3 ++ l2 ++ l1)), (true, 2#4, some 0x66756C6C#32), (true, 3#4, some 1000#32),
        (true, 0#4, some 0x00000001#32)]) ∧
  (∀ (l1 l2 l3 l4 : Byte) (tag : HostValue) (w : Word),
    (HostCall.initializeCall l1 l2 l3 l4 (some tag) (some w)).expand.map HostOp.triple =
      [(true, 1#4, some (l4 ++ l3 ++ l2 ++ l1)), (true, 2#4, some tag.word), (true, 3#4, some w),
        (true, 0#4, some 0x00000001#32)]) ∧
  (∀ (l1 l2 l3 l4 : Byte) (tag : HostValue),
    (HostCall.initializeCall l1 l2 l3 l4 (some tag) none).expand.map HostOp.triple =
      [(true, 1#4, some (l4 ++ l3 ++ l2 ++ l1)), (true, 2#4, some tag.word), (true, 3#4, some 1000#32),
        (true, 0#4, some 0x00000001#32)]) ∧
  (∀ tag : HostValue, (HostCall.setStepMode tag).expand.map HostOp.triple =
    [(true, 1#4, some tag.word), (true, 0#4, some 0x00000002#32)]) ∧
  (∀ n : Word, (HostCall.stepMotor .reverse n).expand.map HostOp.triple =
    [(true, 1#4, some n), (true, 0#4, some 0x00000033#32)]) ∧
  (∀ n : Word, (HostCall.stepMotor .forward n).expand.map HostOp.triple =
    [(true, 1#4, some n), (true, 0#4, some 0x00000013#32)]) ∧
  (∀ n : Word, (HostCall.rotateDegrees n none).expand.map HostOp.triple =
    [(true, 1#4, some n), (true, 0#4, some 0x00000014#32)]) ∧
  (∀ n : Word, (HostCall.rotateDegrees n (some .forward)).expand.map HostOp.triple =
    [(true, 1#4, some n), (true, 0#4, some 0x00000014#32)]) ∧
  (∀ n : Word, (HostCall.rotateDegrees n (some .reverse)).expand.map HostOp.triple =
    [(true, 1#4, some n), (true, 0#4, some 0x00000034#32)]) ∧
  (∀ w : Word, (HostCall.setDwell w).expand.map HostOp.triple =
    [(true, 1#4, some w), (true, 0#4, some 0x00000005#32)]) ∧
  (∀ c : HostCall, c.wellFormed = true → c.expand.all HostOp.wellFormed = true)

/-- A line of a host program that writes CMD waits for the move to end, any other line does not (R55, R95); WAITIDLE stays while BUSY
reads 1 (R94). -/
def Obligations.HostWaitsForMove : Prop :=
  ∀ (ops : List HostOp) (s : State), s.input.rst = false →
    (∀ i, s.busy = true → (hostCycle (.command i :: ops) s).1 = .command i :: ops) ∧
    (∀ i, s.busy = false → (hostCycle (.command i :: ops) s).1 = ops) ∧
    (∀ (r : RegName) (v : HostValue), r.index = 0#4 →
      (hostCycle (.wr r v :: ops) s).1 = if s.busy = true then .wr r v :: ops else ops) ∧
    (∀ r, (hostCycle (.rd r :: ops) s).1 = ops) ∧
    (∀ (r : RegName) (v : HostValue), r.index ≠ 0#4 → (hostCycle (.wr r v :: ops) s).1 = ops) ∧
    ((hostCycle (.waitIdle :: ops) s).1 = if s.busy = true then .waitIdle :: ops else ops)

/-! ## The output ports (10_state.md R22) -/

/-- From R22 and R167: the outputs that show the state, in a cycle without reset. -/
def Obligations.OutputPortsShowState : Prop :=
  ∀ s : State, s.input.rst = false →
    (outputs s).lineIds = s.lines ∧ (outputs s).coil = s.coil ∧ (outputs s).busy = s.fsm.bits.getLsbD 1 ∧
    (outputs s).lineEn = decide (s.fsm ≠ .uncfg) ∧ (outputs s).dlyUs = s.dwell ∧
    (outputs s).wrData = pat s.tables s.mvMode s.mvDir s.idx.toNat ∧
    (outputs s).busRdata = some (readValue s s.input.busAddr) ∧ (outputs s).busReady = busReady s.input s

/-! ## The cycle function as R167 writes it -/

/-- From R167, which the spec marks as derived: its cycle function has the model's step as its next state, in every cycle; its `bus_ready` is
its own formula; its outputs are the model's in every cycle that presents an access or is a reset; and where R55 says otherwise (log entry 7),
in a cycle of a move that presents nothing while the ports carry a CMD write, `bus_ready` alone differs, 0 after R167 and 1 after R55. -/
def Obligations.CycleFunctionIsStep : Prop :=
  ∀ s : State,
    (cycleFunction s).1 = step s ∧
    (s.input.rst = false →
      (cycleFunction s).2.busReady = !(s.input.busWrite && (s.input.busAddr == 0#4) && s.fsm.bits.getLsbD 1)) ∧
    (s.input.rst = true ∨ s.input.busValid = true → (cycleFunction s).2 = outputs s) ∧
    (s.input.rst = false → s.input.busValid = false →
      (cycleFunction s).2 =
        { outputs s with
          busReady := if s.input.busWrite = true ∧ s.input.busAddr = 0#4 ∧ s.busy = true then false else (outputs s).busReady } ∧
      (outputs s).busReady = true)

/-! ## Cycles outside a move (41_motion.md R160, R166) -/

/-- From R160 and R166 with R56 and R57: a cycle in UNCFG or IDLE that is no reset and presents no CMD write changes nothing, whatever the
platform answers, but for the operand register that the host writes in it. -/
def Obligations.CycleOutsideMoveKeepsState : Prop :=
  ∀ s : State, s.fsm = .uncfg ∨ s.fsm = .idle → s.input.rst = false →
    ¬ (s.input.busValid = true ∧ s.input.busWrite = true ∧ s.input.busAddr = 0#4) →
    step s = .next { s with
      arg0 := if s.input.busValid = true ∧ s.input.busWrite = true ∧ s.input.busAddr = 1#4 then s.input.busWdata else s.arg0
      arg1 := if s.input.busValid = true ∧ s.input.busWrite = true ∧ s.input.busAddr = 2#4 then s.input.busWdata else s.arg1
      arg2 := if s.input.busValid = true ∧ s.input.busWrite = true ∧ s.input.busAddr = 3#4 then s.input.busWdata else s.arg2
      inputs := s.inputs.tail
      cycle := s.cycle + 1 }
end

