-- ==== Sys2Proof/Laws/State.lean ====
section
/-! SUPPORT. One lemma per field for each update of State that has a name: no later proof unfolds a record update. -/

namespace Sys2Proof.Machine

/-! ### `raiseErr` -/

@[simp] theorem raiseErr_fsm (e : ErrCode) (s : State) : (raiseErr e s).fsm = s.fsm := rfl
@[simp] theorem raiseErr_arg0 (e : ErrCode) (s : State) : (raiseErr e s).arg0 = s.arg0 := rfl
@[simp] theorem raiseErr_arg1 (e : ErrCode) (s : State) : (raiseErr e s).arg1 = s.arg1 := rfl
@[simp] theorem raiseErr_arg2 (e : ErrCode) (s : State) : (raiseErr e s).arg2 = s.arg2 := rfl
@[simp] theorem raiseErr_mode (e : ErrCode) (s : State) : (raiseErr e s).mode = s.mode := rfl
@[simp] theorem raiseErr_dwell (e : ErrCode) (s : State) : (raiseErr e s).dwell = s.dwell := rfl
@[simp] theorem raiseErr_lines (e : ErrCode) (s : State) : (raiseErr e s).lines = s.lines := rfl
@[simp] theorem raiseErr_coil (e : ErrCode) (s : State) : (raiseErr e s).coil = s.coil := rfl
@[simp] theorem raiseErr_err (e : ErrCode) (s : State) : (raiseErr e s).err = e := rfl
@[simp] theorem raiseErr_idx (e : ErrCode) (s : State) : (raiseErr e s).idx = s.idx := rfl
@[simp] theorem raiseErr_mvDir (e : ErrCode) (s : State) : (raiseErr e s).mvDir = s.mvDir := rfl
@[simp] theorem raiseErr_mvMode (e : ErrCode) (s : State) : (raiseErr e s).mvMode = s.mvMode := rfl
@[simp] theorem raiseErr_remain (e : ErrCode) (s : State) : (raiseErr e s).remain = s.remain := rfl
@[simp] theorem raiseErr_tables (e : ErrCode) (s : State) : (raiseErr e s).tables = s.tables := rfl
@[simp] theorem raiseErr_inputs (e : ErrCode) (s : State) : (raiseErr e s).inputs = s.inputs := rfl
@[simp] theorem raiseErr_cycle (e : ErrCode) (s : State) : (raiseErr e s).cycle = s.cycle := rfl

/-! ### `abortMove` -/

@[simp] theorem abortMove_fsm (s : State) : (abortMove s).fsm = .idle := rfl
@[simp] theorem abortMove_arg0 (s : State) : (abortMove s).arg0 = s.arg0 := rfl
@[simp] theorem abortMove_arg1 (s : State) : (abortMove s).arg1 = s.arg1 := rfl
@[simp] theorem abortMove_arg2 (s : State) : (abortMove s).arg2 = s.arg2 := rfl
@[simp] theorem abortMove_mode (s : State) : (abortMove s).mode = s.mode := rfl
@[simp] theorem abortMove_dwell (s : State) : (abortMove s).dwell = s.dwell := rfl
@[simp] theorem abortMove_lines (s : State) : (abortMove s).lines = s.lines := rfl
@[simp] theorem abortMove_coil (s : State) : (abortMove s).coil = s.coil := rfl
@[simp] theorem abortMove_err (s : State) : (abortMove s).err = .platformIoError := rfl
@[simp] theorem abortMove_idx (s : State) : (abortMove s).idx = s.idx := rfl
@[simp] theorem abortMove_mvDir (s : State) : (abortMove s).mvDir = s.mvDir := rfl
@[simp] theorem abortMove_mvMode (s : State) : (abortMove s).mvMode = s.mvMode := rfl
@[simp] theorem abortMove_remain (s : State) : (abortMove s).remain = s.remain := rfl
@[simp] theorem abortMove_tables (s : State) : (abortMove s).tables = s.tables := rfl
@[simp] theorem abortMove_inputs (s : State) : (abortMove s).inputs = s.inputs := rfl
@[simp] theorem abortMove_cycle (s : State) : (abortMove s).cycle = s.cycle := rfl

/-! ### `consume` -/

@[simp] theorem State.consume_fsm (s : State) : (s.consume).fsm = s.fsm := rfl
@[simp] theorem State.consume_arg0 (s : State) : (s.consume).arg0 = s.arg0 := rfl
@[simp] theorem State.consume_arg1 (s : State) : (s.consume).arg1 = s.arg1 := rfl
@[simp] theorem State.consume_arg2 (s : State) : (s.consume).arg2 = s.arg2 := rfl
@[simp] theorem State.consume_mode (s : State) : (s.consume).mode = s.mode := rfl
@[simp] theorem State.consume_dwell (s : State) : (s.consume).dwell = s.dwell := rfl
@[simp] theorem State.consume_lines (s : State) : (s.consume).lines = s.lines := rfl
@[simp] theorem State.consume_coil (s : State) : (s.consume).coil = s.coil := rfl
@[simp] theorem State.consume_err (s : State) : (s.consume).err = s.err := rfl
@[simp] theorem State.consume_idx (s : State) : (s.consume).idx = s.idx := rfl
@[simp] theorem State.consume_mvDir (s : State) : (s.consume).mvDir = s.mvDir := rfl
@[simp] theorem State.consume_mvMode (s : State) : (s.consume).mvMode = s.mvMode := rfl
@[simp] theorem State.consume_remain (s : State) : (s.consume).remain = s.remain := rfl
@[simp] theorem State.consume_tables (s : State) : (s.consume).tables = s.tables := rfl
@[simp] theorem State.consume_inputs (s : State) : (s.consume).inputs = s.inputs.tail := rfl
@[simp] theorem State.consume_cycle (s : State) : (s.consume).cycle = s.cycle + 1 := rfl

/-! ### `withInput` -/

@[simp] theorem State.withInput_fsm (s : State) (inp : CycleIn) : (s.withInput inp).fsm = s.fsm := rfl
@[simp] theorem State.withInput_arg0 (s : State) (inp : CycleIn) : (s.withInput inp).arg0 = s.arg0 := rfl
@[simp] theorem State.withInput_arg1 (s : State) (inp : CycleIn) : (s.withInput inp).arg1 = s.arg1 := rfl
@[simp] theorem State.withInput_arg2 (s : State) (inp : CycleIn) : (s.withInput inp).arg2 = s.arg2 := rfl
@[simp] theorem State.withInput_mode (s : State) (inp : CycleIn) : (s.withInput inp).mode = s.mode := rfl
@[simp] theorem State.withInput_dwell (s : State) (inp : CycleIn) : (s.withInput inp).dwell = s.dwell := rfl
@[simp] theorem State.withInput_lines (s : State) (inp : CycleIn) : (s.withInput inp).lines = s.lines := rfl
@[simp] theorem State.withInput_coil (s : State) (inp : CycleIn) : (s.withInput inp).coil = s.coil := rfl
@[simp] theorem State.withInput_err (s : State) (inp : CycleIn) : (s.withInput inp).err = s.err := rfl
@[simp] theorem State.withInput_idx (s : State) (inp : CycleIn) : (s.withInput inp).idx = s.idx := rfl
@[simp] theorem State.withInput_mvDir (s : State) (inp : CycleIn) : (s.withInput inp).mvDir = s.mvDir := rfl
@[simp] theorem State.withInput_mvMode (s : State) (inp : CycleIn) : (s.withInput inp).mvMode = s.mvMode := rfl
@[simp] theorem State.withInput_remain (s : State) (inp : CycleIn) : (s.withInput inp).remain = s.remain := rfl
@[simp] theorem State.withInput_tables (s : State) (inp : CycleIn) : (s.withInput inp).tables = s.tables := rfl
@[simp] theorem State.withInput_inputs (s : State) (inp : CycleIn) : (s.withInput inp).inputs = inp :: s.inputs.tail := rfl
@[simp] theorem State.withInput_cycle (s : State) (inp : CycleIn) : (s.withInput inp).cycle = s.cycle := rfl

/-! ### `resetBlock` -/

@[simp] theorem resetBlock_fsm (s : State) : (resetBlock s).fsm = .uncfg := rfl
@[simp] theorem resetBlock_arg0 (s : State) : (resetBlock s).arg0 = 0#32 := rfl
@[simp] theorem resetBlock_arg1 (s : State) : (resetBlock s).arg1 = 0#32 := rfl
@[simp] theorem resetBlock_arg2 (s : State) : (resetBlock s).arg2 = 0#32 := rfl
@[simp] theorem resetBlock_mode (s : State) : (resetBlock s).mode = .full := rfl
@[simp] theorem resetBlock_dwell (s : State) : (resetBlock s).dwell = 1000#32 := rfl
@[simp] theorem resetBlock_lines (s : State) : (resetBlock s).lines = 0#32 := rfl
@[simp] theorem resetBlock_coil (s : State) : (resetBlock s).coil = 0#4 := rfl
@[simp] theorem resetBlock_err (s : State) : (resetBlock s).err = .ok := rfl
@[simp] theorem resetBlock_idx (s : State) : (resetBlock s).idx = 0#3 := rfl
@[simp] theorem resetBlock_mvDir (s : State) : (resetBlock s).mvDir = .forward := rfl
@[simp] theorem resetBlock_mvMode (s : State) : (resetBlock s).mvMode = .full := rfl
@[simp] theorem resetBlock_remain (s : State) : (resetBlock s).remain = 0#32 := rfl
@[simp] theorem resetBlock_tables (s : State) : (resetBlock s).tables = s.tables := rfl
@[simp] theorem resetBlock_inputs (s : State) : (resetBlock s).inputs = s.inputs := rfl
@[simp] theorem resetBlock_cycle (s : State) : (resetBlock s).cycle = s.cycle := rfl

/-! ### this cycle's inputs -/

/-- Whatever the block's own fields are, the first scheduled inputs are this cycle's. -/
@[simp] theorem input_mk (f a0 a1 a2 m w l c e i d v r t) (inp : CycleIn) (rest : List CycleIn) (n : Nat) :
    State.input ⟨f, a0, a1, a2, m, w, l, c, e, i, d, v, r, t, inp :: rest, n⟩ = inp := rfl

@[simp] theorem State.withInput_input (s : State) (inp : CycleIn) : (s.withInput inp).input = inp := rfl

/-- This cycle's inputs depend on nothing of the block itself. -/
theorem input_congr {s t : State} (hi : t.inputs = s.inputs) (hc : t.cycle = s.cycle) : t.input = s.input := by
  simp only [State.input, hi, hc]

/-! ### BUSY -/

theorem busy_eq_true {s : State} : s.busy = true ↔ s.fsm = .emit ∨ s.fsm = .dwell := by
  unfold State.busy
  cases s.fsm <;> decide

theorem busy_eq_false {s : State} : s.busy = false ↔ s.fsm = .uncfg ∨ s.fsm = .idle := by
  unfold State.busy
  cases s.fsm <;> decide

theorem busy_of_emit {s : State} (h : s.fsm = .emit) : s.busy = true := busy_eq_true.mpr (.inl h)

theorem busy_of_dwell {s : State} (h : s.fsm = .dwell) : s.busy = true := busy_eq_true.mpr (.inr h)

theorem not_busy_of_uncfg {s : State} (h : s.fsm = .uncfg) : s.busy = false := busy_eq_false.mpr (.inl h)

theorem not_busy_of_idle {s : State} (h : s.fsm = .idle) : s.busy = false := busy_eq_false.mpr (.inr h)

end Sys2Proof.Machine
end

