-- ==== Sys2Proof/Laws/Ops.lean ====
section
/-! SUPPORT. What each shared operation can do, said once: acceptance, the start of a move, the indexer, the parts of a cycle. -/

namespace Sys2Proof.Machine

/-! ### chaining -/

@[simp] theorem chain_next (s : State) (f : State → Host.Outcome State Fault Refusal) : chain (.next s) f = f s := rfl

@[simp] theorem chain_fault (r : Fault) (f : State → Host.Outcome State Fault Refusal) : chain (.fault r) f = .fault r := rfl

@[simp] theorem chain_refused (r : Refusal) (f : State → Host.Outcome State Fault Refusal) :
    chain (.refused r) f = .refused r := rfl

/-- A chain that answers a next state did so in both parts. -/
theorem chain_eq_next {o : Host.Outcome State Fault Refusal} {f : State → Host.Outcome State Fault Refusal} {t : State}
    (h : chain o f = .next t) : ∃ s, o = .next s ∧ f s = .next t := by
  cases o with
  | next s => exact ⟨s, rfl, h⟩
  | fault r => simp at h
  | refused r => simp at h

/-! ### acceptance -/

theorem accepted_busy (f : State → State) {s : State} (h : s.busy = true) : accepted f s = .next s := by
  simp [accepted, h]

theorem accepted_free (f : State → State) {s : State} (h : s.busy = false) : accepted f s = .next (f s) := by
  simp [accepted, h]

/-- Acceptance always answers a next state: the one before it, or the effect. -/
theorem accepted_cases {f : State → State} {s t : State} (h : accepted f s = .next t) :
    (s.busy = true ∧ t = s) ∨ (s.busy = false ∧ t = f s) := by
  cases hb : s.busy with
  | true => rw [accepted_busy f hb] at h; cases h; exact .inl ⟨rfl, rfl⟩
  | false => rw [accepted_free f hb] at h; cases h; exact .inr ⟨rfl, rfl⟩

theorem whenConfigured_uncfg (f : State → State) {s : State} (h : s.fsm = .uncfg) :
    whenConfigured f s = raiseErr .notConfigured s := by simp [whenConfigured, h]

theorem whenConfigured_idle (f : State → State) {s : State} (h : s.fsm = .idle) : whenConfigured f s = f s := by
  simp [whenConfigured, h]

/-! ### the start of a move -/

theorem startMove_zero_length {n : Int} (h : n ≤ 0) (d : Direction) (s : State) :
    startMove n d s = { s with err := .ok } := by simp [startMove, h]

theorem startMove_positive {n : Int} (h : 0 < n) (d : Direction) (s : State) :
    startMove n d s =
      { s with mvMode := s.mode, mvDir := d, remain := BitVec.ofInt 32 n, idx := 0#3, err := .ok, fsm := .emit } := by
  simp [startMove, Int.not_le.mpr h]

/-- A positive pass count of at most `2^31 - 1` fits REMAIN unchanged. -/
theorem ofInt_toNat {n : Int} (h0 : 0 < n) (h1 : n ≤ 2 ^ 31 - 1) : ((BitVec.ofInt 32 n).toNat : Int) = n := by
  simp only [BitVec.toNat_ofInt]
  omega

theorem toInt_le (w : Word) : w.toInt ≤ 2 ^ 31 - 1 := by
  have := BitVec.toInt_lt (x := w)
  omega

theorem le_toInt (w : Word) : -2 ^ 31 ≤ w.toInt := by
  have := BitVec.le_toInt (x := w)
  omega

/-! ### the indexer -/

@[simp] theorem tableOf_length (t : PatternTables) (m : Mode) : (tableOf t m).length = Config.tableLength m := by
  cases m <;> simp [tableOf, Config.tableLength]

theorem tableLength_pos (m : Mode) : 0 < Config.tableLength m := by cases m <;> decide

theorem tableLength_le (m : Mode) : Config.tableLength m ≤ 8 := by cases m <;> decide

theorem pat_eq_none {t : PatternTables} {m : Mode} {d : Direction} {k : Nat} (h : Config.tableLength m ≤ k) :
    pat t m d k = none := by simp [pat, Nat.not_lt.mpr h]

/-- Inside the table the indexer gives element `k` of the traversal order. -/
theorem pat_eq_order {t : PatternTables} {m : Mode} {d : Direction} {k : Nat} (h : k < Config.tableLength m) :
    pat t m d k = (traversalOrder t m d)[k]? := by
  cases d with
  | forward => simp [pat, h, traversalOrder]
  | reverse => simp [pat, h, traversalOrder]

theorem pat_some {t : PatternTables} {m : Mode} {d : Direction} {k : Nat} (h : k < Config.tableLength m) :
    ∃ p, pat t m d k = some p ∧ p ∈ tableOf t m := by
  have hl : k < (traversalOrder t m d).length := by cases d <;> simp [traversalOrder, h]
  refine ⟨(traversalOrder t m d)[k], by rw [pat_eq_order h, List.getElem?_eq_getElem hl], ?_⟩
  have := List.getElem_mem hl
  cases d with
  | forward => exact this
  | reverse => exact List.mem_reverse.mp this

/-! ### the FSM progress of one cycle -/

/-- The three branches of `advance`. -/
theorem advanceMove_cases (s t : State) :
    (s.idx.toNat < Config.tableLength s.mvMode - 1 ∧
      advanceMove s t = { t with idx := s.idx + 1#3, fsm := .emit }) ∨
    (¬ s.idx.toNat < Config.tableLength s.mvMode - 1 ∧ 1 < s.remain.toNat ∧
      advanceMove s t = { t with idx := 0#3, remain := s.remain - 1#32, fsm := .emit }) ∨
    (¬ s.idx.toNat < Config.tableLength s.mvMode - 1 ∧ ¬ 1 < s.remain.toNat ∧
      advanceMove s t = { t with idx := 0#3, remain := 0#32, fsm := .idle }) := by
  unfold advanceMove
  split
  · exact .inl ⟨‹_›, rfl⟩
  · split
    · exact .inr (.inl ⟨‹_›, ‹_›, rfl⟩)
    · exact .inr (.inr ⟨‹_›, ‹_›, rfl⟩)

theorem fsmProgress_free {inp : CycleIn} {s t : State} (h : s.busy = false) : fsmProgress inp s t = .next t := by
  rcases busy_eq_false.mp h with h | h <;> simp [fsmProgress, h]

theorem fsmProgress_emit {inp : CycleIn} {s t : State} {p : Pattern} (h : s.fsm = .emit)
    (hp : pat s.tables s.mvMode s.mvDir s.idx.toNat = some p) :
    fsmProgress inp s t = .next (emitProgress inp p t) := by simp [fsmProgress, h, hp]

theorem fsmProgress_dwell {inp : CycleIn} {s t : State} (h : s.fsm = .dwell) :
    fsmProgress inp s t = .next (dwellProgress inp s t) := by simp [fsmProgress, h]

/-- What the FSM progress of one cycle can be. -/
theorem fsmProgress_cases {inp : CycleIn} {s t u : State} (h : fsmProgress inp s t = .next u) :
    (s.busy = false ∧ u = t) ∨
    (s.fsm = .emit ∧ ∃ p, pat s.tables s.mvMode s.mvDir s.idx.toNat = some p ∧ u = emitProgress inp p t) ∨
    (s.fsm = .dwell ∧ u = dwellProgress inp s t) := by
  cases hf : s.fsm with
  | uncfg => rw [fsmProgress_free (busy_eq_false.mpr (.inl hf))] at h; cases h; exact .inl ⟨busy_eq_false.mpr (.inl hf), rfl⟩
  | idle => rw [fsmProgress_free (busy_eq_false.mpr (.inr hf))] at h; cases h; exact .inl ⟨busy_eq_false.mpr (.inr hf), rfl⟩
  | dwell => rw [fsmProgress_dwell hf] at h; cases h; exact .inr (.inr ⟨rfl, rfl⟩)
  | emit =>
    cases hp : pat s.tables s.mvMode s.mvDir s.idx.toNat with
    | none => simp [fsmProgress, hf, hp] at h
    | some p => rw [fsmProgress_emit hf hp] at h; cases h; exact .inr (.inl ⟨rfl, p, rfl, rfl⟩)

end Sys2Proof.Machine
end

