-- ==== Sys2Proof/Laws/Commands.lean ====
section
/-! SUPPORT. What an accepted word can do, and what a host access can do. -/

namespace Sys2Proof.Machine

/-- The effect of a command at its acceptance edge. -/
def effect : Instr → State → State
  | .init => fun s => if s.fsm = .uncfg then configureLines s else raiseErr .alreadyConfigured s
  | .setMode => whenConfigured fun s => { s with mode := modeOf s.arg0, err := .ok }
  | .step d => whenConfigured fun s => startMove (passCount s.arg0) d s
  | .rotate d => whenConfigured fun s => startMove (rotatePasses s.mode s.arg0) d s
  | .setDwell => whenConfigured fun s =>
      if dwellValid s.arg0 then { s with dwell := s.arg0, err := .ok } else raiseErr .invalidArgument s

/-- Every command is its effect, accepted. -/
theorem exec_eq_accepted (i : Instr) (s : State) : exec i s = accepted (effect i) s := by cases i <;> rfl

/-- Every command answers a next state. -/
theorem exec_completes (i : Instr) (s : State) : ∃ t, exec i s = .next t := by
  rw [exec_eq_accepted]
  cases hb : s.busy with
  | true => exact ⟨s, accepted_busy _ hb⟩
  | false => exact ⟨_, accepted_free _ hb⟩

/-- Division toward zero by a constant, as division of a number that is not negative. -/
theorem tdiv_spec (a : Int) {b : Int} :
    (0 ≤ a ∧ a.tdiv b = a / b) ∨ (a < 0 ∧ a.tdiv b = -(-a / b)) := by
  rcases Int.lt_or_le a 0 with h | h
  · refine .inr ⟨h, ?_⟩
    rw [← Int.tdiv_eq_ediv_of_nonneg (show 0 ≤ -a by omega), Int.neg_tdiv, Int.neg_neg]
  · exact .inl ⟨h, Int.tdiv_eq_ediv_of_nonneg h⟩

/-- ROTATE's pass count never exceeds a signed 32-bit word. -/
theorem rotatePasses_bounds (m : Mode) (w : Word) : -372827 ≤ rotatePasses m w ∧ rotatePasses m w ≤ 372827 := by
  have h0 := le_toInt w
  have h1 := toInt_le w
  cases m with
  | full =>
    have := tdiv_spec w.toInt (b := 11520)
    simp only [rotatePasses]
    omega
  | half =>
    have := tdiv_spec w.toInt (b := 5760)
    simp only [rotatePasses]
    omega

theorem rotatePasses_le (m : Mode) (w : Word) : rotatePasses m w ≤ 2 ^ 31 - 1 := by
  have := (rotatePasses_bounds m w).2
  omega

/-- What a command can do at acceptance: write ERR alone; configure the lines; select the table; set the dwell; start a move of at
most `2^31 - 1` passes. -/
theorem effect_cases (i : Instr) (s : State) (hb : s.busy = false) :
    (∃ e, effect i s = { s with err := e }) ∨
    (i = .init ∧ s.fsm = .uncfg ∧ 0 < s.arg2.toInt ∧
      effect i s = { s with
        lines := s.arg0, mode := modeOf s.arg1, dwell := s.arg2, coil := 0#4, fsm := .idle, err := .ok }) ∨
    (i = .setMode ∧ s.fsm = .idle ∧ effect i s = { s with mode := modeOf s.arg0, err := .ok }) ∨
    (i = .setDwell ∧ s.fsm = .idle ∧ 0 < s.arg0.toInt ∧ effect i s = { s with dwell := s.arg0, err := .ok }) ∨
    (s.fsm = .idle ∧ ∃ d n, (i = .step d ∨ i = .rotate d) ∧ 0 < n ∧ n ≤ 2 ^ 31 - 1 ∧
      effect i s = { s with
        mvMode := s.mode, mvDir := d, remain := BitVec.ofInt 32 n, idx := 0#3, err := .ok, fsm := .emit }) := by
  have move (d : Direction) (n : Int) (hi : i = .step d ∨ i = .rotate d) (hn : n ≤ 2 ^ 31 - 1)
      (he : effect i s = if s.fsm = .uncfg then raiseErr .notConfigured s else startMove n d s) :
      (∃ e, effect i s = { s with err := e }) ∨
      (s.fsm = .idle ∧ ∃ d n, (i = .step d ∨ i = .rotate d) ∧ 0 < n ∧ n ≤ 2 ^ 31 - 1 ∧
        effect i s = { s with
          mvMode := s.mode, mvDir := d, remain := BitVec.ofInt 32 n, idx := 0#3, err := .ok, fsm := .emit }) := by
    rcases busy_eq_false.mp hb with hf | hf
    · exact .inl ⟨.notConfigured, by rw [he, if_pos hf, raiseErr]⟩
    · rw [if_neg (by rw [hf]; decide)] at he
      rcases Int.lt_or_le 0 n with h0 | h0
      · exact .inr ⟨hf, d, n, hi, h0, hn, he.trans (startMove_positive h0 d s)⟩
      · exact .inl ⟨.ok, he.trans (startMove_zero_length h0 d s)⟩
  cases i with
  | init =>
    by_cases hf : s.fsm = .uncfg
    · by_cases hl : linesAccepted s.input.claimable s.arg0 = false
      · exact .inl ⟨.configurationError, by simp [effect, hf, configureLines, hl, raiseErr]⟩
      · by_cases hd : dwellValid s.arg2 = false
        · exact .inl ⟨.invalidArgument, by simp [effect, hf, configureLines, hl, hd, raiseErr]⟩
        · exact .inr (.inl ⟨rfl, hf, by simpa [dwellValid] using hd, by simp [effect, hf, configureLines, hl, hd]⟩)
    · exact .inl ⟨.alreadyConfigured, by simp [effect, hf, raiseErr]⟩
  | setMode =>
    rcases busy_eq_false.mp hb with hf | hf
    · exact .inl ⟨.notConfigured, by simp [effect, whenConfigured, hf, raiseErr]⟩
    · exact .inr (.inr (.inl ⟨rfl, hf, by simp [effect, whenConfigured, hf]⟩))
  | setDwell =>
    rcases busy_eq_false.mp hb with hf | hf
    · exact .inl ⟨.notConfigured, by simp [effect, whenConfigured, hf, raiseErr]⟩
    · by_cases hd : dwellValid s.arg0 = true
      · exact .inr (.inr (.inr (.inl ⟨rfl, hf, by simpa [dwellValid] using hd,
          by simp [effect, whenConfigured, hf, hd]⟩)))
      · exact .inl ⟨.invalidArgument, by simp [effect, whenConfigured, hf, hd, raiseErr]⟩
  | step d =>
    rcases move d _ (.inl rfl) (toInt_le s.arg0) (by simp [effect, whenConfigured, passCount]) with h | h
    · exact .inl h
    · exact .inr (.inr (.inr (.inr h)))
  | rotate d =>
    rcases move d _ (.inr rfl) (rotatePasses_le s.mode s.arg0) (by simp [effect, whenConfigured]) with h | h
    · exact .inl h
    · exact .inr (.inr (.inr (.inr h)))

/-- An accepted word is a command's effect, or sets ERR alone. -/
theorem acceptWord_free {s : State} (w : Word) (hb : s.busy = false) :
    acceptWord w s = .next
      (match decode w with
        | .command i => effect i s
        | .illegal _ => raiseErr .illegalCommand s) := by
  unfold acceptWord
  cases decode w with
  | command i => exact (exec_eq_accepted i s).trans (accepted_free _ hb)
  | illegal r => exact accepted_free _ hb

/-- What the host access of one cycle can be: nothing, an operand write, or the acceptance of a word outside a move. -/
theorem hostAccess_cases {inp : CycleIn} {s u : State} (h : hostAccess inp s = .next u) :
    u = s ∨
    (inp.busAddr = 1#4 ∧ u = { s with arg0 := inp.busWdata }) ∨
    (inp.busAddr = 2#4 ∧ u = { s with arg1 := inp.busWdata }) ∨
    (inp.busAddr = 3#4 ∧ u = { s with arg2 := inp.busWdata }) ∨
    (accessPerformed inp s = true ∧ inp.busWrite = true ∧ inp.busAddr = 0#4 ∧ s.busy = false ∧
      acceptWord inp.busWdata s = .next u) := by
  unfold hostAccess at h
  split at h
  · rename_i hp
    simp only [Bool.and_eq_true] at hp
    unfold busWrite at h
    split at h
    · rename_i ha
      have ha : inp.busAddr = 0#4 := BitVec.eq_of_toNat_eq ha
      refine .inr (.inr (.inr (.inr ⟨hp.1, hp.2, ha, ?_, h⟩)))
      have hr := hp.1
      simp only [accessPerformed, busReady, ha, hp.2] at hr
      revert hr
      cases s.busy <;> cases inp.busValid <;> simp
    · rename_i ha
      cases h
      exact .inr (.inl ⟨BitVec.eq_of_toNat_eq ha, rfl⟩)
    · rename_i ha
      cases h
      exact .inr (.inr (.inl ⟨BitVec.eq_of_toNat_eq ha, rfl⟩))
    · rename_i ha
      cases h
      exact .inr (.inr (.inr (.inl ⟨BitVec.eq_of_toNat_eq ha, rfl⟩)))
    · cases h
      exact .inl rfl
  · cases h
    exact .inl rfl

/-- The host access of a cycle always answers a next state. -/
theorem hostAccess_completes (inp : CycleIn) (s : State) : ∃ u, hostAccess inp s = .next u := by
  unfold hostAccess
  split
  · unfold busWrite
    split
    · unfold acceptWord
      split
      · exact exec_completes _ _
      · cases hb : s.busy with
        | true => exact ⟨s, accepted_busy _ hb⟩
        | false => exact ⟨_, accepted_free _ hb⟩
    all_goals exact ⟨_, rfl⟩
  · exact ⟨_, rfl⟩

end Sys2Proof.Machine
end

