-- ==== Sys2Proof/Laws/CycleFunction.lean ====
section
/-! SUPPORT. Where the two rules of `bus_ready` agree (20_memory.md R55, 41_motion.md R167): in every cycle that presents an access. -/

namespace Sys2Proof.Machine

theorem busReady_eq_cycleReady {inp : CycleIn} (s : State) (h : inp.busValid = true) :
    busReady inp s = (!inp.rst && cycleReady inp s) := by
  simp [busReady, cycleReady, h]

theorem cycleOutputs_eq_outputs {s : State} (h : s.input.busValid = true) : cycleOutputs s = outputs s := by
  simp [cycleOutputs, outputs, busReady_eq_cycleReady s h]

/-- Outside reset the two rules let the same accesses through. -/
theorem cycleAccess_eq_hostAccess {s : State} (h : s.input.rst = false) : cycleAccess s = hostAccess s.input s := by
  cases hv : s.input.busValid with
  | true => simp [cycleAccess, hostAccess, accessPerformed, busReady_eq_cycleReady s hv, h, hv]
  | false => simp [cycleAccess, hostAccess, accessPerformed, hv]

end Sys2Proof.Machine
end

