-- ==== Sys2Proof/Laws/HostProgram.lean ====
section
/-! SUPPORT. What a string's tag is, carried or not (30_encoding.md R88), and that pseudo-instructions expand to well-formed lines (R94, R95). -/

namespace Sys2Proof.Machine

theorem packText_carried {chars : List Byte} (h : chars.length ≤ 4) :
    packText chars = chars.getD 0 0#8 ++ chars.getD 1 0#8 ++ chars.getD 2 0#8 ++ chars.getD 3 0#8 := by
  simp [packText, textCarried, h]

theorem packText_uncarried {chars : List Byte} (h : 4 < chars.length) : packText chars = uncarriedTag chars := by
  simp [packText, textCarried, Nat.not_le.mpr h]

theorem uncarriedTag_ne_half (chars : List Byte) : uncarriedTag chars ≠ Config.halfTag := by
  unfold uncarriedTag
  split
  · decide
  · assumption

/-- A string of more than four characters selects FULL, whatever tag the driver sends for it. -/
theorem modeOf_packText_uncarried {chars : List Byte} (h : 4 < chars.length) : modeOf (packText chars) = .full := by
  rw [packText_uncarried h, modeOf, if_neg (uncarriedTag_ne_half chars)]

theorem HostCall.expand_wellFormed {c : HostCall} (h : c.wellFormed = true) : c.expand.all HostOp.wellFormed = true := by
  cases c with
  | initializeCall l1 l2 l3 l4 tag dwell =>
    cases tag with
    | none => rfl
    | some v => simpa [HostCall.wellFormed, HostCall.expand, HostOp.wellFormed, HostValue.wellFormed] using h
  | setStepMode tag => simpa [HostCall.wellFormed, HostCall.expand, HostOp.wellFormed] using h
  | stepMotor dir n => rfl
  | rotateDegrees degrees dir => rfl
  | setDwell w => rfl

end Sys2Proof.Machine
end

