-- ==== Sys2Proof/Laws/PerInstr.lean ====
section
/-! SUPPORT. The family OpcodeRow: each command is well formed, its fields pass the checks of 30_encoding.md R81-R83, and its word matches its row of the opcode map (R85). -/

namespace Sys2Proof.Laws.OpcodeRow

/-- What the family says of one instruction. -/
def Statement (i : Instr) : Prop :=
  i.WellFormed = true ∧ i.fields.legal = true ∧ i.row ∈ opcodeMap ∧ i.row.matches (encode i) = true

theorem init : Statement .init := by unfold Statement; decide
theorem setMode : Statement .setMode := by unfold Statement; decide
theorem step (d : Direction) : Statement (.step d) := by unfold Statement; cases d <;> decide
theorem rotate (d : Direction) : Statement (.rotate d) := by unfold Statement; cases d <;> decide
theorem setDwell : Statement .setDwell := by unfold Statement; decide

end Sys2Proof.Laws.OpcodeRow
end

