-- ==== Sys2Proof/Laws/Step.lean ====
section
/-! SUPPORT. What a step can do, said once: reset, or the host access and then the FSM progress. -/

namespace Sys2Proof.Machine

theorem step_reset {s : State} (h : s.input.rst = true) : step s = .next (resetBlock s).consume := by
  simp [step, clockCycle, h]

theorem step_running {s : State} (h : s.input.rst = false) :
    step s = chain (hostAccess s.input s) fun t => chain (fsmProgress s.input s t) fun u => .next u.consume := by
  simp [step, clockCycle, h]

/-- A step that answers a next state is a reset, or a host access followed by the FSM progress. -/
theorem step_cases {s t : State} (h : step s = .next t) :
    (s.input.rst = true ∧ t = (resetBlock s).consume) ∨
    (s.input.rst = false ∧ ∃ u v, hostAccess s.input s = .next u ∧ fsmProgress s.input s u = .next v ∧ t = v.consume) := by
  cases hr : s.input.rst with
  | true => rw [step_reset hr] at h; cases h; exact .inl ⟨rfl, rfl⟩
  | false =>
    rw [step_running hr] at h
    obtain ⟨u, hu, h⟩ := chain_eq_next h
    obtain ⟨v, hv, h⟩ := chain_eq_next h
    cases h
    exact .inr ⟨rfl, u, v, hu, hv, rfl⟩

/-- During a move a host access touches the operand registers only. -/
theorem hostAccess_busy {inp : CycleIn} {s u : State} (hb : s.busy = true) (h : hostAccess inp s = .next u) :
    ∃ x y z, u = { s with arg0 := x, arg1 := y, arg2 := z } := by
  rcases hostAccess_cases h with rfl | ⟨-, rfl⟩ | ⟨-, rfl⟩ | ⟨-, rfl⟩ | ⟨-, -, -, hf, -⟩
  · exact ⟨_, _, _, rfl⟩
  · exact ⟨_, _, _, rfl⟩
  · exact ⟨_, _, _, rfl⟩
  · exact ⟨_, _, _, rfl⟩
  · rw [hb] at hf; cases hf

end Sys2Proof.Machine
end

