-- ==== Sys2Proof/Tests/Slice0.lean ====
section
/-! SUPPORT. Tests against the spec's own vectors (95_test_vectors.md, the worked examples of the rules), the ill-formed terms that each check refuses, and for every statement with hypotheses a named witness that meets them. -/

namespace Sys2Proof.Tests

open Sys2Proof.Machine Sys2Proof.Safety

/-! ## States and inputs -/

/-- A cycle in which nobody does anything; `LINE_CLAIMABLE` is true exactly for the ids 1..8, as in 95_test_vectors.md. -/
def quiet : CycleIn where
  rst       := false
  busValid  := false
  busWrite  := false
  busAddr   := 0#4
  busWdata  := 0#32
  wrAck     := false
  wrErr     := false
  dlyDone   := false
  dlyErr    := false
  claimable := 0x1FE#256

/-- A host write of `v` to word `a`. -/
def write (a : BitVec 4) (v : Word) : CycleIn := quiet.request true a v

/-- `s` with the given inputs in its coming cycles. -/
def given (s : State) (inputs : List CycleIn) : State := { s with inputs := inputs }

/-- `S0` with operands. -/
def fresh (x y z : Word) : State := given { State.reset with arg0 := x, arg1 := y, arg2 := z } [quiet]

/-- `CFG_FULL` with operand 0. -/
def cfgFull (x : Word) : State :=
  given { State.reset with fsm := .idle, lines := 0x04030201#32, arg0 := x } [quiet]

/-- `CFG_HALF` with operand 0. -/
def cfgHalf (x : Word) : State := { cfgFull x with mode := .half }

/-- A FULL forward move in EMIT, at an index and with passes to go. -/
def emitting (idx : BitVec 3) (remain : Word) : State := { cfgFull 0#32 with fsm := .emit, idx := idx, remain := remain }

/-- The same move in DWELL. -/
def dwelling (idx : BitVec 3) (remain : Word) : State := { emitting idx remain with fsm := .dwell }

/-- What a test reads of an outcome. -/
def view {α : Type} (f : State → α) : Host.Outcome State Fault Refusal → Option α
  | .next t => some (f t)
  | .fault _ => none
  | .refused _ => none

/-! ## Well-formedness: each check refuses an ill-formed term -/

theorem test_reserved_bit_refused : (CommandFields.mk 3#4 1#2 1#26).reservedClear = false := by decide
theorem test_opcode_zero_refused : (CommandFields.mk 0#4 0#2 0#26).opcodeKnown = false := by decide
theorem test_opcode_six_refused : (CommandFields.mk 6#4 0#2 0#26).opcodeKnown = false := by decide
theorem test_step_direction_zero_refused : (CommandFields.mk 3#4 0#2 0#26).directionFits = false := by decide
theorem test_set_mode_with_direction_refused : (CommandFields.mk 2#4 3#2 0#26).directionFits = false := by decide
theorem test_ill_formed_fields_refused : (CommandFields.mk 15#4 0#2 0#26).legal = false := by decide
theorem test_every_command_well_formed :
    Instr.WellFormed .init = true ∧ Instr.WellFormed .setMode = true ∧ Instr.WellFormed (.step .reverse) = true ∧
      Instr.WellFormed (.rotate .reverse) = true ∧ Instr.WellFormed .setDwell = true := by decide
theorem test_full_table_of_three_coils_refused :
    ({ Config.defaultTables with full := #v[0x3#4, 0x7#4, 0xC#4, 0x9#4] } : PatternTables).fullLegal = false := by decide
theorem test_half_table_not_alternating_refused :
    ({ Config.defaultTables with half := #v[0x1#4, 0x2#4, 0x2#4, 0x6#4, 0x4#4, 0xC#4, 0x8#4, 0x9#4] } : PatternTables).halfLegal
      = false := by decide
theorem test_default_tables_legal : Config.defaultTables.legal = true := by decide
theorem test_text_of_five_characters_refused :
    (HostValue.text [0x68#8, 0x61#8, 0x6C#8, 0x66#8, 0x66#8]).wellFormed = false := by decide
/-- R88: "halfway" cannot be carried, and selects FULL. -/
theorem test_long_text_is_not_half :
    modeOf (packText [0x68#8, 0x61#8, 0x6C#8, 0x66#8, 0x77#8, 0x61#8, 0x79#8]) = .full :=
  modeOf_packText_uncarried (by decide)
theorem test_line_with_long_text_refused :
    (HostOp.wr .arg0 (.text [0x68#8, 0x61#8, 0x6C#8, 0x66#8, 0x77#8])).wellFormed = false ∧
      (HostCall.setStepMode (.text [0x68#8, 0x61#8, 0x6C#8, 0x66#8, 0x77#8])).wellFormed = false := by decide
theorem test_text_not_ascii_refused : (HostValue.text [0x80#8]).wellFormed = false := by decide

/-! ## Decoding: the words of R81 and R82, bit by bit, and L2-D -/

theorem test_decode_init : decode 0b00000000000000000000000000000001#32 = .command .init := by decide
theorem test_decode_set_mode : decode 0b00000000000000000000000000000010#32 = .command .setMode := by decide
theorem test_decode_step_forward : decode 0b00000000000000000000000000010011#32 = .command (.step .forward) := by decide
theorem test_decode_step_reverse : decode 0b00000000000000000000000000110011#32 = .command (.step .reverse) := by decide
theorem test_decode_rotate_forward : decode 0b00000000000000000000000000010100#32 = .command (.rotate .forward) := by decide
theorem test_decode_rotate_reverse : decode 0b00000000000000000000000000110100#32 = .command (.rotate .reverse) := by decide
theorem test_decode_set_dwell : decode 0b00000000000000000000000000000101#32 = .command .setDwell := by decide

/-- The illegal words of L2-D. -/
theorem test_illegal_words_refused :
    ([0x00000000, 0x00000003, 0x00000023, 0x00000004, 0x00000024, 0x00000011, 0x00000032, 0x00000015, 0x00000006, 0x0000000F,
      0x00000053, 0x80000013, 0xFFFFFFFF].all fun w => (decodeTableWord 32 w).isNone) = true := by decide

/-- A value of more than 32 bits is no command word. -/
theorem test_decode_wide_word_refused : decodeTableWord 64 0x100000001 = none := by decide

/-! ## One command each (L2-I, L2-M, L2-W, L2-S, L2-R) -/

/-- L2-I2, R114. -/
theorem test_init_half :
    view (fun t => (statusWord t, t.lines, t.dwell)) (exec .init (fresh 0x04030201#32 0x68616C66#32 500#32))
      = some (0x00000019#32, 0x04030201#32, 500#32) := by decide
/-- L2-I12: the line check comes before the dwell check. -/
theorem test_init_bad_line_before_bad_dwell :
    view statusWord (exec .init (fresh 0x04030209#32 0#32 0#32)) = some 0x00000100#32 := by decide
/-- L2-M, "half". -/
theorem test_set_mode_half : view statusWord (exec .setMode (cfgFull 0x68616C66#32)) = some 0x00000019#32 := by decide
/-- L2-M, "HALF" from CFG_HALF: there is no "keep" case. -/
theorem test_set_mode_capitals : view statusWord (exec .setMode (cfgHalf 0x48414C46#32)) = some 0x00000009#32 := by decide
/-- L2-W. -/
theorem test_set_dwell_largest :
    view (fun t => (statusWord t, t.dwell)) (exec .setDwell (cfgFull 0x7FFFFFFF#32)) = some (0x00000009#32, 0x7FFFFFFF#32) := by
  decide
/-- L2-W: bit 31 set is not positive. -/
theorem test_set_dwell_negative :
    view (fun t => (statusWord t, t.dwell)) (exec .setDwell (cfgFull 0x80000000#32)) = some (0x00000209#32, 1000#32) := by
  decide
/-- L2-S4. -/
theorem test_step_reverse_half :
    view (fun t => (statusWord t, t.remain)) (exec (.step .reverse) (cfgHalf 1#32)) = some (0x0001801E#32, 1#32) := by decide
/-- L2-S8: a zero-length move. -/
theorem test_step_negative :
    view (fun t => (statusWord t, t.remain)) (exec (.step .reverse) (cfgFull 0x80000000#32)) = some (0x00000009#32, 0#32) := by
  decide
/-- L1-9: one degree is 5 passes in FULL. -/
theorem test_rotate_one_degree :
    view (fun t => (statusWord t, t.remain)) (exec (.rotate .forward) (cfgFull 0x00010000#32)) = some (0x0000000E#32, 5#32) := by
  decide
/-- L2-R: truncation toward zero, also of negative angles. -/
theorem test_rotate_counts :
    (rotatePasses .full 0xFFFF0000#32, rotatePasses .half 0xFFFF0000#32, rotatePasses .full 0x00002CFF#32,
      rotatePasses .half 0x7FFFFFFF#32, rotatePasses .full 0x80000000#32, rotatePasses .half 0x002D8000#32)
      = (-5, -11, 0, 372827, -186413, 517) := by decide

/-! ## The bus, the move, reset and the host program, one step each -/

/-- L2-P7: a failed first write. -/
theorem test_failed_write :
    view (fun t => (statusWord t, t.coil)) (step (given (emitting 0#3 1#32) [{ quiet with wrErr := true }]))
      = some (0x00000309#32, 0#4) := by decide
/-- L3-1, cycle t+7: the last pattern is acknowledged. -/
theorem test_acknowledged_write :
    view (fun t => (statusWord t, t.coil)) (step (given (emitting 3#3 1#32) [{ quiet with wrAck := true }]))
      = some (0x0000300F#32, 9#4) := by decide
/-- L3-1, cycle t+8: the move ends. -/
theorem test_last_dwell_ends :
    view (fun t => (statusWord t, t.remain)) (step (given (dwelling 3#3 1#32) [{ quiet with dlyDone := true }]))
      = some (0x00000009#32, 0#32) := by decide
/-- L3-5: an operand write during a move is performed, and a CMD write is held. -/
theorem test_writes_during_move :
    view (fun t => (t.arg0, t.fsm)) (step (given (emitting 0#3 1#32) [write 1#4 0x68616C66#32])) = some (0x68616C66#32, .emit) ∧
    (outputs (given (emitting 0#3 1#32) [write 0#4 2#32])).busReady = false := by decide
/-- L2-P6. -/
theorem test_reset_in_dwell :
    view id (step (given { dwelling 2#3 1#32 with coil := 0xC#4 } [{ quiet with rst := true }]))
      = some { State.reset with cycle := 1 } := by decide
/-- L2-D and L2-I14: STATUS after an illegal word, a command before INIT and a second INIT. -/
theorem test_status_of_refused_words :
    view statusWord (acceptWord 0#32 (cfgFull 0#32)) = some 0x00000409#32 ∧
    view statusWord (acceptWord 2#32 (fresh 0#32 0#32 0#32)) = some 0x00000500#32 ∧
    view statusWord (acceptWord 1#32 (cfgFull 0#32)) = some 0x00000609#32 := by decide
/-- L3-4, line 8: a reserved word reads 0. -/
theorem test_reserved_word_reads_zero : readValue (cfgFull 1#32) 12#4 = 0#32 := by decide
/-- L1-2: the reverse traversal of the HALF table. -/
theorem test_half_reverse_order :
    (List.range 9).map (pat Config.defaultTables .half .reverse)
      = [some 9#4, some 8#4, some 0xC#4, some 4#4, some 6#4, some 2#4, some 3#4, some 1#4, none] := by decide
/-- L3-2, line 1, as bus triples. -/
theorem test_initialize_call :
    (HostCall.initializeCall 5#8 6#8 7#8 8#8 (some (.text [0x68#8, 0x61#8, 0x6C#8, 0x66#8])) (some 250#32)).expand.map
        HostOp.triple
      = [(true, 1#4, some 0x08070605#32), (true, 2#4, some 0x68616C66#32), (true, 3#4, some 0x000000FA#32),
          (true, 0#4, some 0x00000001#32)] := by decide
/-- The first step after reset runs the command it is given. -/
theorem test_first_step_runs_command :
    view (fun t => t.err) (step (State.reset.withFetchWord 32 0x13)) = some .notConfigured := by decide

/-! ## Witnesses: states and operands that meet the hypotheses of each statement, clause by clause -/

theorem witness_OpcodeMapMatchesDecoder :
    decode 0x33#32 = .command (.step .reverse) ∧ decode 0x14#32 = .command (.rotate .forward) ∧
    decode 0x53#32 = .illegal .reservedBits := by decide

theorem witness_IllegalWordsOnlySetErr :
    decode 0x40#32 = .illegal .reservedBits ∧ decode 0#32 = .illegal .unknownOpcode ∧ decode 6#32 = .illegal .unknownOpcode ∧
    decode 0x21#32 = .illegal .directionNotTaken ∧ decode 0x23#32 = .illegal .directionInvalid ∧
    (fresh 0#32 0#32 0#32).fsm = .uncfg ∧ (cfgFull 0#32).fsm = .idle := by decide

theorem witness_ModeTagSelectsHalfOnly :
    (cfgFull 0#32).fsm = .idle ∧ (fresh 0x04030201#32 0#32 1#32).fsm = .uncfg ∧
    view State.err (exec .init (fresh 0x04030201#32 0#32 1#32)) = some .ok := by decide

/-- Each clause of InitChecksThenConfigures: configured; a line that cannot be claimed; two equal ids; the dwell at 0 and at the
most negative word; the dwell at 1 and at the largest word. -/
theorem witness_InitChecksThenConfigures :
    (cfgFull 0#32).fsm = .idle ∧
    ((fresh 0x09030201#32 0#32 1#32).fsm = .uncfg ∧
      lineClaimable (fresh 0x09030201#32 0#32 1#32).input.claimable ((0x09030201#32 : Word).extractLsb' (8 * 3) 8) = false) ∧
    ((0 : Nat) < 1 ∧ (0x04030101#32 : Word).extractLsb' (8 * 0) 8 = (0x04030101#32 : Word).extractLsb' (8 * 1) 8) ∧
    ((∀ k < 4, lineClaimable (fresh 0x04030201#32 0#32 0#32).input.claimable
        ((0x04030201#32 : Word).extractLsb' (8 * k) 8) = true) ∧
      (∀ k < 4, ∀ j < k, (0x04030201#32 : Word).extractLsb' (8 * j) 8 ≠ (0x04030201#32 : Word).extractLsb' (8 * k) 8)) ∧
    ((0#32 : Word).toInt ≤ 0 ∧ (0x80000000#32 : Word).toInt ≤ 0 ∧ 0 < (1#32 : Word).toInt ∧
      0 < (0x7FFFFFFF#32 : Word).toInt) := by decide

/-- SetModeIsIdempotent: "" and "foo" give the same mode. -/
theorem witness_SetModeIsIdempotent :
    (cfgHalf 0#32).fsm = .idle ∧ view id (exec .setMode (cfgHalf 0#32)) = some (cfgFull 0#32) ∧
    modeOf 0x666F6F00#32 = modeOf (cfgHalf 0#32).arg0 := by decide

/-- SetModeSelectsTable: a tag, then a STEP or a ROTATE that starts a move. -/
theorem witness_SetModeSelectsTable :
    (cfgFull 0x68616C66#32).fsm = .idle ∧
    view id (exec .setMode (cfgFull 0x68616C66#32)) = some (cfgHalf 0x68616C66#32) ∧
    view State.busy (exec (.step .forward) { cfgHalf 0x68616C66#32 with arg0 := 1#32 }) = some true ∧
    view State.busy (exec (.rotate .forward) { cfgHalf 0x68616C66#32 with arg0 := 5760#32 }) = some true := by decide

theorem witness_SetDwellStoresPositiveDwell :
    (cfgFull 1#32).fsm = .idle ∧ 0 < (cfgFull 1#32).arg0.toInt ∧ (cfgFull 0#32).arg0.toInt ≤ 0 ∧
    (cfgFull 0x80000000#32).arg0.toInt ≤ 0 ∧
    (let s := given (dwelling 0#3 1#32) [write 0#4 5#32]
     s.busy = true ∧ s.input.rst = false ∧ (view State.dwell (step s)).isSome = true) := by decide

theorem witness_CommandsBeforeInitAreRefused : Instr.setDwell ≠ .init ∧ (fresh 1#32 0#32 0#32).fsm = .uncfg := by decide

theorem witness_StepStartsMove :
    (cfgFull 1#32).fsm = .idle ∧ 0 < (cfgFull 1#32).arg0.toInt ∧ 0 < (cfgFull 0x7FFFFFFF#32).arg0.toInt ∧
    (cfgFull 0#32).arg0.toInt ≤ 0 ∧ (cfgFull 0xFFFFFFFF#32).arg0.toInt ≤ 0 := by decide

/-- RotateStartsMove at the smallest angle of one pass and the largest of none, in both modes, and at a negative angle. -/
theorem witness_RotateStartsMove :
    (cfgFull 11520#32).fsm = .idle ∧ (cfgHalf 5760#32).fsm = .idle ∧
    (1 : Int) = (cfgFull 11520#32).arg0.toInt.tdiv 11520 ∧ (0 : Int) = (cfgFull 11519#32).arg0.toInt.tdiv 11520 ∧
    (1 : Int) = (cfgHalf 5760#32).arg0.toInt.tdiv 5760 ∧ (0 : Int) = (cfgHalf 5759#32).arg0.toInt.tdiv 5760 ∧
    (-11 : Int) = (cfgHalf 0xFFFF0000#32).arg0.toInt.tdiv 5760 := by decide

theorem witness_CommandIsHeldDuringMove : (emitting 0#3 1#32).fsm = .emit ∧ (dwelling 3#3 1#32).fsm = .dwell := by decide

/-- AcceptedCommandReportsOnce: a word that fails and a word that starts a move. -/
theorem witness_AcceptedCommandReportsOnce :
    (fresh 0#32 0#32 0#32).fsm = .uncfg ∧
    view id (acceptWord 0x13#32 (fresh 0#32 0#32 0#32)) = some { fresh 0#32 0#32 0#32 with err := .notConfigured } ∧
    (cfgFull 1#32).fsm = .idle ∧
    view (fun t => (t.busy, t.err)) (acceptWord 0x13#32 (cfgFull 1#32)) = some (true, .ok) := by decide

/-- CommandFrames, RegisterWordsFrame and StatusBitsFrame: each command answers a next state that differs from the first. -/
theorem witness_CommandFrames :
    view (fun t => decide (t = fresh 0x04030201#32 0#32 1#32)) (exec .init (fresh 0x04030201#32 0#32 1#32)) = some false ∧
    view (fun t => decide (t = cfgFull 0x68616C66#32)) (exec .setMode (cfgFull 0x68616C66#32)) = some false ∧
    view (fun t => decide (t = cfgFull 5#32)) (exec .setDwell (cfgFull 5#32)) = some false ∧
    view (fun t => decide (t = cfgFull 1#32)) (exec (.step .reverse) (cfgFull 1#32)) = some false ∧
    view (fun t => decide (t = cfgFull 0x10000#32)) (exec (.rotate .reverse) (cfgFull 0x10000#32)) = some false ∧
    (0#4 : BitVec 4) ≠ 4#4 ∧ (15#4 : BitVec 4) ≠ 4#4 ∧ ¬ (8 ≤ 12 ∧ 12 ≤ 11) ∧ ¬ (8 ≤ 17 ∧ 17 ≤ 16) := by decide

theorem witness_UnreadOperandsHaveNoEffect : Instr.setMode ≠ .init ∧ Instr.rotate .forward ≠ .init := by decide

/-- StepRunsDecodedCommand: a command and an illegal word presented outside a move, a command presented during one, and a word
given by `withFetchWord`. -/
theorem witness_StepRunsDecodedCommand :
    (let s := given (cfgFull 1#32) [write 0#4 0x13#32]
     s.input.rst = false ∧ s.input.busValid = true ∧ s.input.busWrite = true ∧ s.input.busAddr = 0#4 ∧ s.busy = false ∧
       decode s.input.busWdata = .command (.step .forward)) ∧
    (let s := given (cfgFull 1#32) [write 0#4 0x23#32]
     s.input.rst = false ∧ s.input.busValid = true ∧ s.input.busWrite = true ∧ s.input.busAddr = 0#4 ∧ s.busy = false ∧
       decode s.input.busWdata = .illegal .directionInvalid) ∧
    (let s := given (dwelling 3#3 1#32) [write 0#4 0x13#32]
     s.input.rst = false ∧ s.input.busValid = true ∧ s.input.busWrite = true ∧ s.input.busAddr = 0#4 ∧ s.busy = true) ∧
    State.reset.busy = false ∧ decodeTableWord 32 0x33 = some (.step .reverse) := by decide

theorem witness_RegisterMapReadsAndWrites :
    9 ≤ (9#4 : BitVec 4).toNat ∧ 9 ≤ (15#4 : BitVec 4).toNat ∧ 4 ≤ (4#4 : BitVec 4).toNat := by decide

theorem witness_BusHoldsOnlyCmdDuringMove :
    (quiet.rst = false ∧ quiet.busValid = false) ∧ ((write 0#4 1#32).rst = false ∧ (write 0#4 1#32).busValid = true) ∧
    ({ quiet with rst := true } : CycleIn).rst = true ∧ busReady (write 0#4 1#32) (emitting 0#3 1#32) = false ∧
    busReady (write 1#4 1#32) (emitting 0#3 1#32) = true := by decide

theorem witness_ReadsChangeNothing :
    (quiet.request false 4#4 0#32).busWrite = false ∧ (quiet.request false 4#4 0#32).rst = false := by decide

theorem witness_OperandsWrittenOnlyByHost :
    let s := given (dwelling 1#3 1#32) [write 3#4 7#32]
    s.input.rst = false ∧ view (fun t => (t.arg0, t.arg1, t.arg2)) (step s) = some (0#32, 0#32, 7#32) := by decide

theorem witness_OperandsReadOnlyAtAcceptance :
    let s := given (emitting 0#3 1#32) [{ write 0#4 2#32 with wrAck := true }]
    ¬ (s.input.busValid = true ∧ s.input.busWrite = true ∧ s.input.busAddr = 0#4 ∧ s.busy = false) ∧
      view State.fsm (step s) = some .dwell := by decide

theorem witness_IndexerFollowsTraversalOrder :
    3 < Config.tableLength .full ∧ Config.tableLength .full ≤ 4 ∧ 7 < Config.tableLength .half ∧
    Config.tableLength .half ≤ 8 := by decide

theorem witness_PatternsEnergiseOneOrTwoCoils :
    Config.defaultTables.legal = true ∧ pat Config.defaultTables .half .reverse 6 = some 3#4 ∧
    pat Config.defaultTables .half .reverse (6 + 1) = some 1#4 := by decide

theorem witness_PlatformRequestsFollowFsm :
    (emitting 0#3 1#32).input.rst = false ∧ (emitting 0#3 1#32).fsm = .emit ∧ (dwelling 0#3 1#32).input.rst = false ∧
    (dwelling 0#3 1#32).fsm = .dwell ∧ (cfgFull 0#32).input.rst = false ∧ (cfgFull 0#32).busy = false := by decide

/-- EmitCycle: no answer, an acknowledgement, a failure, and both at once (L2-P1, L2-P2), at the last index of the table. -/
theorem witness_EmitCycle :
    (let s := given (emitting 3#3 1#32) [quiet]
     s.fsm = .emit ∧ s.input.rst = false ∧ pat s.tables s.mvMode s.mvDir s.idx.toNat = some 9#4 ∧ s.input.wrErr = false ∧
       s.input.wrAck = false) ∧
    (let s := given (emitting 3#3 1#32) [{ quiet with wrAck := true }]
     s.fsm = .emit ∧ s.input.rst = false ∧ pat s.tables s.mvMode s.mvDir s.idx.toNat = some 9#4 ∧ s.input.wrErr = false ∧
       s.input.wrAck = true) ∧
    (let s := given (emitting 3#3 1#32) [{ quiet with wrAck := true, wrErr := true }]
     s.fsm = .emit ∧ s.input.rst = false ∧ pat s.tables s.mvMode s.mvDir s.idx.toNat = some 9#4 ∧ s.input.wrErr = true) := by
  decide

/-- DwellCycle: no answer, a failure beside an end (L2-P3), and the three ways a dwell ends, each at its boundary. -/
theorem witness_DwellCycle :
    (let s := given (dwelling 0#3 1#32) [quiet]
     s.fsm = .dwell ∧ s.input.rst = false ∧ s.input.dlyErr = false ∧ s.input.dlyDone = false) ∧
    (let s := given (dwelling 0#3 1#32) [{ quiet with dlyErr := true, dlyDone := true }]
     s.fsm = .dwell ∧ s.input.rst = false ∧ s.input.dlyErr = true) ∧
    (let s := given (dwelling 2#3 1#32) [{ quiet with dlyDone := true }]
     s.fsm = .dwell ∧ s.input.rst = false ∧ s.input.dlyErr = false ∧ s.input.dlyDone = true ∧
       s.idx.toNat < Config.tableLength s.mvMode - 1) ∧
    (let s := given (dwelling 3#3 2#32) [{ quiet with dlyDone := true }]
     s.fsm = .dwell ∧ s.input.rst = false ∧ s.input.dlyErr = false ∧ s.input.dlyDone = true ∧
       ¬ s.idx.toNat < Config.tableLength s.mvMode - 1 ∧ 1 < s.remain.toNat) ∧
    (let s := given (dwelling 3#3 1#32) [{ quiet with dlyDone := true }]
     s.fsm = .dwell ∧ s.input.rst = false ∧ s.input.dlyErr = false ∧ s.input.dlyDone = true ∧
       ¬ s.idx.toNat < Config.tableLength s.mvMode - 1 ∧ s.remain.toNat ≤ 1) := by decide

/-- AbortKeepsFailurePoint: a failed write and a failed delay, each followed by a STEP and a ROTATE that start a move. -/
theorem witness_AbortKeepsFailurePoint :
    (let s := given (emitting 2#3 2#32) [{ quiet with wrErr := true }]
     s.input.rst = false ∧ s.fsm = .emit ∧ s.input.wrErr = true ∧
       (view (fun t => view State.busy (exec (.step .reverse) { t with arg0 := 1#32 })) (step s) = some (some true))) ∧
    (let s := given (dwelling 2#3 2#32) [{ quiet with dlyErr := true }]
     s.input.rst = false ∧ s.fsm = .dwell ∧ s.input.dlyErr = true ∧
       (view (fun t => view State.busy (exec (.rotate .reverse) { t with arg0 := 11520#32 })) (step s)
         = some (some true))) := by decide

theorem witness_AnswersIgnoredOutsideMove : (fresh 0#32 0#32 0#32).fsm = .uncfg ∧ (cfgFull 0#32).fsm = .idle := by decide

/-- RequestsAlternate: an acknowledged write, an ended delay in the middle of a move and at its end, and a failed delay, within the platform
contract, and a next cycle without reset. -/
theorem witness_RequestsAlternate :
    (let s := given (emitting 0#3 1#32) [{ quiet with wrAck := true }, quiet]
     s.input.rst = false ∧ view (fun t => t.input.rst) (step s) = some false ∧ answered s = true ∧ (outputs s).wrReq = true ∧
       AnswersLegal s) ∧
    (let s := given (dwelling 2#3 1#32) [{ quiet with dlyDone := true }, quiet]
     s.input.rst = false ∧ view (fun t => (t.input.rst, (outputs t).wrReq)) (step s) = some (false, true) ∧ answered s = true ∧
       (outputs s).dlyReq = true ∧ AnswersLegal s) ∧
    (let s := given (dwelling 3#3 1#32) [{ quiet with dlyDone := true }, quiet]
     s.input.rst = false ∧ view (fun t => (t.input.rst, t.fsm)) (step s) = some (false, .idle) ∧ answered s = true ∧
       (outputs s).dlyReq = true) ∧
    (let s := given (dwelling 0#3 1#32) [{ quiet with dlyErr := true }]
     s.input.rst = false ∧ (view State.fsm (step s)).isSome = true ∧ failed s = true ∧ (outputs s).dlyReq = true ∧ AnswersLegal s) := by
  decide

theorem witness_ResetOverridesEverything :
    (given (dwelling 0#3 1#32) [{ write 0#4 1#32 with rst := true, dlyDone := true }]).input.rst = true := by decide

/-- The model's invariant outside a move, with a step that answers a next state. -/
theorem witness_EngineInvariantIsKept_idle :
    EngineInvariant (cfgFull 1#32) ∧ (view State.fsm (step (cfgFull 1#32))).isSome = true := by decide

/-- The model's invariant in a move, at the last index and the largest pass count. -/
theorem witness_EngineInvariantIsKept_move :
    EngineInvariant (emitting 3#3 0x7FFFFFFF#32) ∧ (view State.fsm (step (emitting 3#3 0x7FFFFFFF#32))).isSome = true := by decide

/-- NoCycleStopsUnderInvariant and StatedInvariantIsKept: the invariant of R40 alone, with ERR not OK in a move, which only R40 allows. -/
theorem witness_StatedInvariantIsKept :
    let s : State := { emitting 3#3 1#32 with err := .illegalCommand }
    StatedInvariant s ∧ (view State.fsm (step s)).isSome = true := by decide

/-- FaultExactlyOutsideTable: the first index outside the FULL table; the last inside does not stop. -/
theorem witness_FaultExactlyOutsideTable :
    step (emitting 4#3 1#32) = .fault .indexOutsideTable ∧ (emitting 4#3 1#32).input.rst = false ∧
    Config.tableLength (emitting 4#3 1#32).mvMode ≤ (emitting 4#3 1#32).idx.toNat ∧
    (view State.fsm (step (emitting 3#3 1#32))).isSome = true :=
  ⟨rfl, by decide, by decide, by decide⟩

/-- A state reached from reset in one cycle, by an operand write. -/
theorem witness_ReachableStatesMeetInvariant : Reachable { State.reset with arg0 := 5#32, cycle := 1 } :=
  ⟨Config.defaultTables, [write 1#4 5#32], 0, 1, by decide, rfl⟩

/-- The writers of MODE and of the configuration: reset, SET_MODE, INIT, SET_DWELL, each changing the field. -/
theorem witness_ConfigurationWriters :
    (view (fun t => decide (t.mode ≠ .half)) (step (given (cfgHalf 0#32) [{ quiet with rst := true }])) = some true ∧
      CommandIssued .setMode (given (cfgFull 0x68616C66#32) [write 0#4 2#32]) ∧
      view State.mode (step (given (cfgFull 0x68616C66#32) [write 0#4 2#32])) = some .half) ∧
    (let s := given (fresh 0x04030201#32 0x68616C66#32 1#32) [write 0#4 1#32]
     CommandIssued .init s ∧ s.fsm = .uncfg ∧
       view (fun t => (t.err, t.mode, t.dwell, t.lines)) (step s) = some (.ok, .half, 1#32, 0x04030201#32)) ∧
    (let s := given (cfgFull 5#32) [write 0#4 5#32]
     CommandIssued .setDwell s ∧ s.configured = true ∧ s.input.rst = false ∧
       view (fun t => (t.err, t.dwell)) (step s) = some (.ok, 5#32)) := by decide

/-- CoilWriters: reset, an INIT in a state that no run reaches, and an acknowledged write, each changing COIL. -/
theorem witness_CoilWriters :
    view State.coil (step (given { cfgFull 0#32 with coil := 9#4 } [{ quiet with rst := true }])) = some 0#4 ∧
    view State.coil (step (given { fresh 0x04030201#32 0#32 1#32 with coil := 9#4 } [write 0#4 1#32])) = some 0#4 ∧
    view State.coil (step (given (emitting 1#3 1#32) [{ quiet with wrAck := true }])) = some 6#4 := by decide

/-- LifetimeFromInitToReset: the step that begins a lifetime and the step that ends one. -/
theorem witness_LifetimeFromInitToReset :
    (fresh 0x04030201#32 0#32 1#32).fsm = .uncfg ∧
    view State.fsm (step (given (fresh 0x04030201#32 0#32 1#32) [write 0#4 1#32])) = some .idle ∧
    (cfgFull 0#32).fsm ≠ .uncfg ∧ view State.fsm (step (given (cfgFull 0#32) [{ quiet with rst := true }])) = some .uncfg := by
  decide

/-- The shortest move: one forward pass of the FULL table, with a platform that answers at once (L2-S1). -/
def shortestMove : State :=
  given (emitting 0#3 1#32) ((List.replicate 4 [{ quiet with wrAck := true }, { quiet with dlyDone := true }]).flatten ++ [quiet])

/-- A check of every state of a run, as a statement about the run. -/
theorem along_run (p : State → Bool) (k : Nat) (s : State)
    (h : (List.range k).all (fun j => (view p (runCycles j s)).getD true) = true) :
    ∀ j < k, ∀ u, runCycles j s = .next u → p u = true := by
  intro j hj u hu
  have := List.all_eq_true.mp h j (List.mem_range.mpr hj)
  simpa [hu, view] using this

theorem witness_MoveEmitsEveryPattern :
    shortestMove.fsm = .emit ∧ shortestMove.idx = 0#3 ∧ 1 ≤ shortestMove.remain.toNat ∧
    view (fun t => (t.busy, t.err, t.coil)) (runCycles 8 shortestMove) = some (false, .ok, 9#4) ∧
    (∀ j < 8, ∀ u, runCycles j shortestMove = .next u → u.busy = true ∧ u.input.rst = false) := by
  refine ⟨by decide, by decide, by decide, by decide, fun j hj u hu => ?_⟩
  simpa using along_run (fun u => u.busy && !u.input.rst) 8 shortestMove (by decide) j hj u hu

/-- EachAnswerMovesOneState: the acceptance of one pass. -/
theorem witness_EachAnswerMovesOneState_accepted :
    (cfgFull 1#32).fsm = .idle ∧ 0 < (cfgFull 1#32).arg0.toInt ∧
    view answersLeft (exec (.step .forward) (cfgFull 1#32)) = some 8 := by decide

/-- EachAnswerMovesOneState: the acceptance of a ROTATE of one pass, in HALF. -/
theorem witness_EachAnswerMovesOneState_rotate :
    (cfgHalf 5760#32).fsm = .idle ∧ 0 < rotatePasses (cfgHalf 5760#32).mode (cfgHalf 5760#32).arg0 ∧
    view answersLeft (exec (.rotate .reverse) (cfgHalf 5760#32)) = some 16 := by decide

/-- EachAnswerMovesOneState: the last answer of a move. -/
theorem witness_EachAnswerMovesOneState_answered :
    let s := given (dwelling 3#3 1#32) [{ quiet with dlyDone := true }]
    StatedInvariant s ∧ s.busy = true ∧ s.input.rst = false ∧ failed s = false ∧ answered s = true ∧
      view State.busy (step s) = some false := by decide

/-- EachAnswerMovesOneState: a failure. -/
theorem witness_EachAnswerMovesOneState_failed :
    let s := given (emitting 3#3 1#32) [{ quiet with wrErr := true }]
    StatedInvariant s ∧ s.busy = true ∧ s.input.rst = false ∧ failed s = true ∧ view State.busy (step s) = some false := by
  decide

theorem witness_UnansweredRequestHoldsForever :
    let s := given (emitting 0#3 1#32) [quiet, quiet]
    StatedInvariant s ∧ s.busy = true ∧ view State.fsm (runCycles 2 s) = some .emit ∧
    (∀ j < 2, ∀ u, runCycles j s = .next u →
      u.input.rst = false ∧ u.input.wrAck = false ∧ u.input.wrErr = false ∧ u.input.dlyDone = false ∧ u.input.dlyErr = false) := by
  refine ⟨by decide, by decide, by decide, fun j hj u hu => ?_⟩
  have := along_run (fun u => !(u.input.rst || u.input.wrAck || u.input.wrErr || u.input.dlyDone || u.input.dlyErr)) 2
    (given (emitting 0#3 1#32) [quiet, quiet]) (by decide) j hj u hu
  simpa [and_assoc] using this

/-- HeldCommandRunsAfterMove: a CMD write held in the last cycle of a move and performed in the next (L3-5). -/
theorem witness_HeldCommandRunsAfterMove :
    let s := given (dwelling 3#3 1#32) [{ write 0#4 2#32 with dlyDone := true }, write 0#4 2#32]
    let t := given { cfgFull 0#32 with cycle := 1 } [write 0#4 2#32]
    s.input.busValid = true ∧ s.input.busWrite = true ∧ s.input.busAddr = 0#4 ∧ view id (runCycles 1 s) = some t ∧
    s.busy = true ∧ s.input.rst = false ∧ HostHolds s t ∧ t.busy = false ∧ t.input.rst = false := by decide

theorem witness_HostWaitsForMove :
    (emitting 0#3 1#32).input.rst = false ∧ (emitting 0#3 1#32).busy = true ∧ (cfgFull 0#32).input.rst = false ∧
    (cfgFull 0#32).busy = false ∧ RegName.index .arg0 ≠ 0#4 ∧ RegName.index (.word 0#4) = 0#4 ∧ RegName.index (.word 15#4) ≠ 0#4 := by decide

theorem witness_PseudoInstructionsExpand :
    (HostCall.setStepMode (.text [0x66#8, 0x6F#8, 0x6F#8])).wellFormed = true ∧
    (HostCall.initializeCall 1#8 2#8 3#8 4#8 none none).wellFormed = true := by decide

theorem witness_OutputPortsShowState :
    (emitting 0#3 1#32).input.rst = false ∧ (fresh 0#32 0#32 0#32).input.rst = false := by decide

/-- CycleFunctionIsStep: a reset, a CMD write presented in a move, and the same ports in a move with nothing presented. -/
theorem witness_CycleFunctionIsStep :
    (given (emitting 0#3 1#32) [{ quiet with rst := true }]).input.rst = true ∧
    (let s := given (emitting 0#3 1#32) [write 0#4 2#32]
     s.input.rst = false ∧ s.input.busValid = true ∧ (cycleFunction s).2.busReady = false) ∧
    (let s := given (emitting 0#3 1#32) [{ write 0#4 2#32 with busValid := false }]
     s.input.rst = false ∧ s.input.busValid = false ∧ s.busy = true ∧ (cycleFunction s).2.busReady = false ∧
       (outputs s).busReady = true) := by decide

/-- CycleOutsideMoveKeepsState: an answer of the platform in UNCFG, and in IDLE a read of CMD, an operand write and a write to the word
after the operands. -/
theorem witness_CycleOutsideMoveKeepsState :
    ((fresh 0#32 0#32 0#32).fsm = .uncfg ∧ (cfgFull 0#32).fsm = .idle) ∧
    (∀ i ∈ [{ quiet with wrAck := true }, quiet.request false 0#4 0#32, write 1#4 7#32, write 4#4 7#32],
      i.rst = false ∧ ¬ (i.busValid = true ∧ i.busWrite = true ∧ i.busAddr = 0#4)) := by decide

end Sys2Proof.Tests
end

/-! ## Cycles

SUPPORT. What one cycle can be, in one named case per branch of 41_motion.md R167, and that no branch but an acceptance reads ARG0..ARG2. -/

namespace Sys2Proof.Machine

open Sys2Proof.Safety

/-! ### The operand registers -/

/-- `s` with other values of ARG0..ARG2. -/
def State.withOperands (s : State) (x y z : Word) : State := { s with arg0 := x, arg1 := y, arg2 := z }

@[simp] theorem State.withOperands_fsm (s : State) (x y z : Word) : (s.withOperands x y z).fsm = s.fsm := rfl
@[simp] theorem State.withOperands_arg0 (s : State) (x y z : Word) : (s.withOperands x y z).arg0 = x := rfl
@[simp] theorem State.withOperands_arg1 (s : State) (x y z : Word) : (s.withOperands x y z).arg1 = y := rfl
@[simp] theorem State.withOperands_arg2 (s : State) (x y z : Word) : (s.withOperands x y z).arg2 = z := rfl
@[simp] theorem State.withOperands_mode (s : State) (x y z : Word) : (s.withOperands x y z).mode = s.mode := rfl
@[simp] theorem State.withOperands_dwell (s : State) (x y z : Word) : (s.withOperands x y z).dwell = s.dwell := rfl
@[simp] theorem State.withOperands_lines (s : State) (x y z : Word) : (s.withOperands x y z).lines = s.lines := rfl
@[simp] theorem State.withOperands_coil (s : State) (x y z : Word) : (s.withOperands x y z).coil = s.coil := rfl
@[simp] theorem State.withOperands_err (s : State) (x y z : Word) : (s.withOperands x y z).err = s.err := rfl
@[simp] theorem State.withOperands_idx (s : State) (x y z : Word) : (s.withOperands x y z).idx = s.idx := rfl
@[simp] theorem State.withOperands_mvDir (s : State) (x y z : Word) : (s.withOperands x y z).mvDir = s.mvDir := rfl
@[simp] theorem State.withOperands_mvMode (s : State) (x y z : Word) : (s.withOperands x y z).mvMode = s.mvMode := rfl
@[simp] theorem State.withOperands_remain (s : State) (x y z : Word) : (s.withOperands x y z).remain = s.remain := rfl
@[simp] theorem State.withOperands_tables (s : State) (x y z : Word) : (s.withOperands x y z).tables = s.tables := rfl
@[simp] theorem State.withOperands_inputs (s : State) (x y z : Word) : (s.withOperands x y z).inputs = s.inputs := rfl
@[simp] theorem State.withOperands_cycle (s : State) (x y z : Word) : (s.withOperands x y z).cycle = s.cycle := rfl
@[simp] theorem State.withOperands_input (s : State) (x y z : Word) : (s.withOperands x y z).input = s.input := rfl
@[simp] theorem State.withOperands_busy (s : State) (x y z : Word) : (s.withOperands x y z).busy = s.busy := rfl

@[simp] theorem State.withOperands_self (s : State) : s.withOperands s.arg0 s.arg1 s.arg2 = s := rfl

@[simp] theorem State.withOperands_withOperands (s : State) (x y z a b c : Word) :
    (s.withOperands x y z).withOperands a b c = s.withOperands a b c := rfl

/-- The value of operand register word `a`, `old` before the edge, after a cycle outside reset (R24, R57). -/
def CycleIn.operandAfter (inp : CycleIn) (a : BitVec 4) (old : Word) : Word :=
  if inp.busValid = true ∧ inp.busWrite = true ∧ inp.busAddr = a then inp.busWdata else old

theorem CycleIn.operandAfter_of_addr_ne {inp : CycleIn} {a : BitVec 4} (h : inp.busAddr ≠ a) (old : Word) :
    inp.operandAfter a old = old := if_neg fun hw => h hw.2.2

/-- `u` with the operand registers that the cycle out of `s` leaves, where it accepts no word. -/
abbrev hostOperands (s u : State) : State :=
  u.withOperands (s.input.operandAfter 1#4 s.arg0) (s.input.operandAfter 2#4 s.arg1) (s.input.operandAfter 3#4 s.arg2)

/-! ### The host access -/

/-- A CMD write is performed in this cycle outside a move: a command word is accepted (R55, R100). -/
abbrev Accepts (s : State) : Prop :=
  s.input.busValid = true ∧ s.input.busWrite = true ∧ s.input.busAddr = 0#4 ∧ s.busy = false

theorem not_busy_of_accepts {s : State} (ha : Accepts s) : s.busy = false := by
  obtain ⟨-, -, -, hb⟩ := ha
  exact hb

/-- A write to a word other than CMD reaches at most the operand register it addresses (R57). -/
theorem busWrite_operands {a : BitVec 4} (ha : a ≠ 0#4) (v : Word) (s : State) :
    busWrite a v s = .next (s.withOperands
      (if a = 1#4 then v else s.arg0) (if a = 2#4 then v else s.arg1) (if a = 3#4 then v else s.arg2)) := by
  by_cases h1 : a = 1#4
  · subst h1; rfl
  by_cases h2 : a = 2#4
  · subst h2; rfl
  by_cases h3 : a = 3#4
  · subst h3; rfl
  have ignored : busWrite a v s = .next s := by
    unfold busWrite
    split
    case h_1 h => exact absurd (BitVec.eq_of_toNat_eq h) ha
    case h_2 h => exact absurd (BitVec.eq_of_toNat_eq h) h1
    case h_3 h => exact absurd (BitVec.eq_of_toNat_eq h) h2
    case h_4 h => exact absurd (BitVec.eq_of_toNat_eq h) h3
    case h_5 => rfl
  simp [ignored, h1, h2, h3]

theorem hostAccess_accepts {s : State} (hr : s.input.rst = false) (ha : Accepts s) :
    hostAccess s.input s = acceptWord s.input.busWdata s := by
  obtain ⟨hv, hw, ha, hb⟩ := ha
  simp [hostAccess, accessPerformed, busReady, busWrite, hr, hv, hw, ha, hb]

/-- The access of a cycle that accepts no word is an operand write or nothing (R55-R57). -/
theorem hostAccess_of_not_accepts {s : State} (hr : s.input.rst = false) (ha : ¬ Accepts s) :
    hostAccess s.input s = .next (hostOperands s s) := by
  cases hv : s.input.busValid with
  | false => simp [hostAccess, accessPerformed, hostOperands, CycleIn.operandAfter, hv]
  | true =>
    cases hw : s.input.busWrite with
    | false => simp [hostAccess, hostOperands, CycleIn.operandAfter, hw]
    | true =>
      by_cases h0 : s.input.busAddr = 0#4
      · have hb : s.busy = true := by simpa [Accepts, hv, hw, h0] using ha
        simp [hostAccess, accessPerformed, busReady, hostOperands, CycleIn.operandAfter, hv, hw, h0, hb]
      · simp [hostAccess, accessPerformed, busReady, hostOperands, CycleIn.operandAfter, busWrite_operands h0, hr, hv, hw, h0]

/-! ### The FSM progress and the operands -/

theorem advanceMove_withOperands (s t : State) (x y z : Word) :
    advanceMove s (t.withOperands x y z) = (advanceMove s t).withOperands x y z := by
  unfold advanceMove
  split
  · rfl
  · split <;> rfl

/-- The FSM progress neither reads nor writes the operand registers. -/
theorem fsmProgress_withOperands (inp : CycleIn) (s t : State) (x y z : Word) :
    fsmProgress inp s (t.withOperands x y z) = chain (fsmProgress inp s t) fun u => .next (u.withOperands x y z) := by
  cases hf : s.fsm with
  | uncfg => simp [fsmProgress, hf]
  | idle => simp [fsmProgress, hf]
  | emit =>
    cases hp : pat s.tables s.mvMode s.mvDir s.idx.toNat with
    | none => simp [fsmProgress, hf, hp]
    | some p =>
      simp only [fsmProgress_emit hf hp, chain_next, emitProgress]
      split
      · rfl
      · split <;> rfl
  | dwell =>
    simp only [fsmProgress_dwell hf, chain_next, dwellProgress, advanceMove_withOperands]
    split
    · rfl
    · split <;> rfl

/-! ### One cycle outside reset -/

/-- A cycle that accepts no word is the FSM progress with the host's operand write beside it. -/
theorem step_of_not_accepts {s : State} (hr : s.input.rst = false) (ha : ¬ Accepts s) :
    step s = chain (fsmProgress s.input s s) fun u => .next (hostOperands s u).consume := by
  rw [step_running hr, hostAccess_of_not_accepts hr ha, chain_next, fsmProgress_withOperands]
  cases fsmProgress s.input s s <;> rfl

theorem step_accepts_command {s : State} {i : Instr} (hr : s.input.rst = false) (ha : Accepts s)
    (hd : decode s.input.busWdata = .command i) : step s = .next (effect i s).consume := by
  have hb := not_busy_of_accepts ha
  simp [step_running hr, hostAccess_accepts hr ha, acceptWord_free _ hb, hd, fsmProgress_free hb]

theorem step_accepts_illegal {s : State} {r : IllegalReason} (hr : s.input.rst = false) (ha : Accepts s)
    (hd : decode s.input.busWdata = .illegal r) : step s = .next (raiseErr .illegalCommand s).consume := by
  have hb := not_busy_of_accepts ha
  simp [step_running hr, hostAccess_accepts hr ha, acceptWord_free _ hb, hd, fsmProgress_free hb]

/-- An accepted command word is a command issued. -/
theorem commandIssued_of_accepts {s : State} {i : Instr} (hr : s.input.rst = false) (ha : Accepts s)
    (hd : decode s.input.busWdata = .command i) : CommandIssued i s := by
  obtain ⟨hv, hw, h0, hb⟩ := ha
  exact ⟨by simp [accessPerformed, busReady, hr, hv, hb], hw, h0, hd⟩

/-- No command writes an operand register. -/
theorem effect_operands (i : Instr) {s : State} (hb : s.busy = false) :
    (effect i s).arg0 = s.arg0 ∧ (effect i s).arg1 = s.arg1 ∧ (effect i s).arg2 = s.arg2 := by
  rcases effect_cases i s hb with ⟨e, he⟩ | ⟨-, -, -, he⟩ | ⟨-, -, he⟩ | ⟨-, -, -, he⟩ | ⟨-, d, n, -, -, -, he⟩ <;>
    rw [he] <;> exact ⟨rfl, rfl, rfl⟩

/-- The operand registers after a cycle outside reset. -/
theorem step_operands {s t : State} (hr : s.input.rst = false) (h : step s = .next t) :
    t.arg0 = s.input.operandAfter 1#4 s.arg0 ∧ t.arg1 = s.input.operandAfter 2#4 s.arg1 ∧
      t.arg2 = s.input.operandAfter 3#4 s.arg2 := by
  by_cases ha : Accepts s
  · have hkeep : t.arg0 = s.arg0 ∧ t.arg1 = s.arg1 ∧ t.arg2 = s.arg2 := by
      cases hd : decode s.input.busWdata with
      | command i =>
        rw [step_accepts_command hr ha hd] at h
        cases h
        exact effect_operands i (not_busy_of_accepts ha)
      | illegal r =>
        rw [step_accepts_illegal hr ha hd] at h
        cases h
        exact ⟨rfl, rfl, rfl⟩
    obtain ⟨-, -, h0, -⟩ := ha
    simpa [CycleIn.operandAfter_of_addr_ne, h0] using hkeep
  · rw [step_of_not_accepts hr ha] at h
    obtain ⟨u, -, h⟩ := chain_eq_next h
    cases h
    exact ⟨rfl, rfl, rfl⟩

/-- What a cycle outside reset can do to the state `s`: one case for each thing that the host's access or the platform's answer brings
about. `hostOperands` carries the operand write that may fall in the same cycle. -/
inductive RunningCycle (s : State) : State → Prop where
  /-- outside a move, and no word accepted -/
  | rest (hb : s.busy = false) (ha : ¬ Accepts s) : RunningCycle s (hostOperands s s).consume
  /-- an accepted word that writes ERR alone: illegal, refused, or a move of no passes -/
  | report (ha : Accepts s) (e : ErrCode) : RunningCycle s { s with err := e }.consume
  /-- INIT succeeds (R111) -/
  | configure (hi : CommandIssued .init s) (hf : s.fsm = .uncfg) (hd : 0 < s.arg2.toInt) :
    RunningCycle s
      { s with lines := s.arg0, mode := modeOf s.arg1, dwell := s.arg2, coil := 0#4, fsm := .idle, err := .ok }.consume
  /-- SET_MODE succeeds (R120) -/
  | selectMode (hi : CommandIssued .setMode s) (hf : s.fsm = .idle) :
    RunningCycle s { s with mode := modeOf s.arg0, err := .ok }.consume
  /-- SET_DWELL succeeds (R130) -/
  | selectDwell (hi : CommandIssued .setDwell s) (hf : s.fsm = .idle) (hd : 0 < s.arg0.toInt) :
    RunningCycle s { s with dwell := s.arg0, err := .ok }.consume
  /-- STEP or ROTATE starts a move of `n` passes (R145, R152) -/
  | start (d : Direction) (n : Int) (hi : CommandIssued (.step d) s ∨ CommandIssued (.rotate d) s) (hf : s.fsm = .idle)
      (h0 : 0 < n) (hn : n ≤ 2 ^ 31 - 1) :
    RunningCycle s { s with
      mvMode := s.mode, mvDir := d, remain := BitVec.ofInt 32 n, idx := 0#3, err := .ok, fsm := .emit }.consume
  /-- the outstanding request is not answered -/
  | hold (hb : s.busy = true) (ha : answered s = false) (hf : failed s = false) :
    RunningCycle s (hostOperands s s).consume
  /-- the outstanding request fails (R204) -/
  | abort (hb : s.busy = true) (hf : failed s = true) : RunningCycle s (hostOperands s (abortMove s)).consume
  /-- the coil write is acknowledged (R162) -/
  | wrote (p : Pattern) (hf : s.fsm = .emit) (hp : pat s.tables s.mvMode s.mvDir s.idx.toNat = some p)
      (he : s.input.wrErr = false) (ha : s.input.wrAck = true) :
    RunningCycle s (hostOperands s { s with coil := p, fsm := .dwell }).consume
  /-- the delay ends (R164) -/
  | waited (hf : s.fsm = .dwell) (he : s.input.dlyErr = false) (ha : s.input.dlyDone = true) :
    RunningCycle s (hostOperands s (advanceMove s s)).consume

theorem runningCycle_of_command {s : State} {i : Instr} (ha : Accepts s) (hi : CommandIssued i s) :
    RunningCycle s (effect i s).consume := by
  have hb := not_busy_of_accepts ha
  rcases effect_cases i s hb with
    ⟨e, he⟩ | ⟨rfl, hf, hd, he⟩ | ⟨rfl, hf, he⟩ | ⟨rfl, hf, hd, he⟩ | ⟨hf, d, n, hmv, h0, hn, he⟩ <;> rw [he]
  · exact .report ha e
  · exact .configure hi hf hd
  · exact .selectMode hi hf
  · exact .selectDwell hi hf hd
  · refine .start d n ?_ hf h0 hn
    rcases hmv with rfl | rfl
    · exact .inl hi
    · exact .inr hi

theorem runningCycle_of_emit {s : State} {p : Pattern} (hr : s.input.rst = false) (hf : s.fsm = .emit)
    (hp : pat s.tables s.mvMode s.mvDir s.idx.toNat = some p) :
    RunningCycle s (hostOperands s (emitProgress s.input p s)).consume := by
  have hb := busy_of_emit hf
  cases he : s.input.wrErr with
  | true => simpa [emitProgress, he] using RunningCycle.abort hb (by simp [failed, hr, hf, he])
  | false =>
    cases ha : s.input.wrAck with
    | true => simpa [emitProgress, he, ha] using RunningCycle.wrote p hf hp he ha
    | false =>
      simpa [emitProgress, he, ha] using
        RunningCycle.hold hb (by simp [answered, hf, ha]) (by simp [failed, hf, he])

theorem runningCycle_of_dwell {s : State} (hr : s.input.rst = false) (hf : s.fsm = .dwell) :
    RunningCycle s (hostOperands s (dwellProgress s.input s s)).consume := by
  have hb := busy_of_dwell hf
  cases he : s.input.dlyErr with
  | true => simpa [dwellProgress, he] using RunningCycle.abort hb (by simp [failed, hr, hf, he])
  | false =>
    cases ha : s.input.dlyDone with
    | true => simpa [dwellProgress, he, ha] using RunningCycle.waited hf he ha
    | false =>
      simpa [dwellProgress, he, ha] using
        RunningCycle.hold hb (by simp [answered, hf, ha]) (by simp [failed, hf, he])

theorem runningCycle_of_step {s t : State} (hr : s.input.rst = false) (h : step s = .next t) : RunningCycle s t := by
  by_cases ha : Accepts s
  · cases hd : decode s.input.busWdata with
    | command i =>
      rw [step_accepts_command hr ha hd] at h
      cases h
      exact runningCycle_of_command ha (commandIssued_of_accepts hr ha hd)
    | illegal r =>
      rw [step_accepts_illegal hr ha hd] at h
      cases h
      exact .report ha .illegalCommand
  · rw [step_of_not_accepts hr ha] at h
    obtain ⟨u, hu, h⟩ := chain_eq_next h
    cases h
    rcases fsmProgress_cases hu with ⟨hb, rfl⟩ | ⟨hf, p, hp, rfl⟩ | ⟨hf, rfl⟩
    · exact .rest hb ha
    · exact runningCycle_of_emit hr hf hp
    · exact runningCycle_of_dwell hr hf

/-- A step that answers a next state is a reset, or one of the cases of a cycle outside reset. -/
theorem step_reset_or_running {s t : State} (h : step s = .next t) :
    (s.input.rst = true ∧ t = (resetBlock s).consume) ∨ (s.input.rst = false ∧ RunningCycle s t) := by
  cases hr : s.input.rst with
  | true =>
    rw [step_reset hr] at h
    cases h
    exact .inl ⟨rfl, rfl⟩
  | false => exact .inr ⟨rfl, runningCycle_of_step hr h⟩

/-! ### What `advance` leaves unchanged (R164, R165) -/

theorem advanceMove_frame (s t : State) :
    advanceMove s t = { t with
      idx := (advanceMove s t).idx, remain := (advanceMove s t).remain, fsm := (advanceMove s t).fsm } := by
  rcases advanceMove_cases s t with ⟨-, h⟩ | ⟨-, -, h⟩ | ⟨-, -, h⟩ <;> rw [h]

@[simp] theorem advanceMove_mode (s t : State) : (advanceMove s t).mode = t.mode := by rw [advanceMove_frame]

@[simp] theorem advanceMove_dwell (s t : State) : (advanceMove s t).dwell = t.dwell := by rw [advanceMove_frame]

@[simp] theorem advanceMove_lines (s t : State) : (advanceMove s t).lines = t.lines := by rw [advanceMove_frame]

@[simp] theorem advanceMove_coil (s t : State) : (advanceMove s t).coil = t.coil := by rw [advanceMove_frame]

theorem advanceMove_fsm (s t : State) : (advanceMove s t).fsm = .emit ∨ (advanceMove s t).fsm = .idle := by
  rcases advanceMove_cases s t with ⟨-, h⟩ | ⟨-, -, h⟩ | ⟨-, -, h⟩
  · exact .inl (by rw [h])
  · exact .inl (by rw [h])
  · exact .inr (by rw [h])

end Sys2Proof.Machine

/-! ## Patterns

SUPPORT. The coils that the entries of legal tables energise (10_state.md R31), seen through the indexer (41_motion.md R142). -/

namespace Sys2Proof.Machine

/-- The indexer gives entries of the table and nothing else. -/
theorem pat_mem {t : PatternTables} {m : Mode} {d : Direction} {k : Nat} {p : Pattern} (h : pat t m d k = some p) :
    k < Config.tableLength m ∧ p ∈ tableOf t m := by
  rcases Nat.lt_or_ge k (Config.tableLength m) with hk | hk
  · obtain ⟨q, hq, hm⟩ := pat_some (t := t) (d := d) hk
    obtain rfl : q = p := by simpa [hq] using h
    exact ⟨hk, hm⟩
  · simp [pat_eq_none hk] at h

theorem PatternTables.legal_popcount {t : PatternTables} (h : t.legal = true) {m : Mode} {p : Pattern}
    (hp : p ∈ tableOf t m) : 1 ≤ popcount p ∧ popcount p ≤ 2 := by
  simp only [PatternTables.legal, PatternTables.fullLegal, PatternTables.halfLegal, Bool.and_eq_true] at h
  obtain ⟨hfull, hhalf, -⟩ := h
  cases m with
  | full => exact of_decide_eq_true (List.all_eq_true.mp hfull p hp)
  | half => exact of_decide_eq_true (List.all_eq_true.mp hhalf p hp)

/-- Neighbours of the HALF table energise 3 coils together. -/
theorem PatternTables.legal_half_neighbours {t : PatternTables} (h : t.legal = true) {k : Nat} {p q : Pattern}
    (hp : (tableOf t .half)[k]? = some p) (hq : (tableOf t .half)[k + 1]? = some q) : popcount p + popcount q = 3 := by
  simp only [PatternTables.legal, PatternTables.halfLegal, Bool.and_eq_true] at h
  obtain ⟨-, -, hpairs⟩ := h
  have hz : (List.zip (tableOf t .half) (tableOf t .half).tail)[k]? = some (p, q) :=
    List.getElem?_zip_eq_some.mpr ⟨hp, by rw [List.getElem?_tail]; exact hq⟩
  have hsum := List.all_eq_true.mp hpairs (p, q) (List.mem_of_getElem? hz)
  simpa using hsum

/-- Two entries that the HALF traversal gives one after the other are neighbours of the table, in one order or the other. -/
theorem pat_half_neighbours {t : PatternTables} {d : Direction} {k : Nat} {p q : Pattern}
    (hp : pat t .half d k = some p) (hq : pat t .half d (k + 1) = some q) :
    ∃ j, ((tableOf t .half)[j]? = some p ∧ (tableOf t .half)[j + 1]? = some q) ∨
      ((tableOf t .half)[j]? = some q ∧ (tableOf t .half)[j + 1]? = some p) := by
  have hk : k + 1 < 8 := (pat_mem hq).1
  cases d with
  | forward =>
    refine ⟨k, .inl ⟨?_, ?_⟩⟩
    · simpa [pat, Config.tableLength, show k < 8 by omega] using hp
    · simpa [pat, Config.tableLength, hk] using hq
  | reverse =>
    refine ⟨7 - (k + 1), .inr ⟨?_, ?_⟩⟩
    · simpa [pat, Config.tableLength, hk] using hq
    · rw [show 7 - (k + 1) + 1 = 7 - k by omega]
      simpa [pat, Config.tableLength, show k < 8 by omega] using hp

end Sys2Proof.Machine

/-! ## The statements of 10_state.md

Reset values, output ports, patterns, the operand registers, and who writes which register. -/

namespace Sys2Proof

open Sys2Proof.Machine Sys2Proof.Safety

/-- Settles O25: an accepted word writes no operand register, and every other cycle is the FSM progress, which writes none, with the
host's write beside it. -/
theorem operandsWrittenOnlyByHost : Obligations.OperandsWrittenOnlyByHost := by
  intro s t hr h
  exact step_operands hr h

/-- Settles O26: a cycle that accepts no word is the FSM progress, which does not read the operand registers. -/
theorem operandsReadOnlyAtAcceptance : Obligations.OperandsReadOnlyAtAcceptance := by
  intro s t x y z ha h
  cases hr : s.input.rst with
  | true =>
    rw [step_reset hr] at h
    cases h
    exact ⟨_, step_reset hr, rfl⟩
  | false =>
    rw [step_of_not_accepts hr ha] at h
    obtain ⟨u, hu, h⟩ := chain_eq_next h
    cases h
    have hu' : fsmProgress s.input s (s.withOperands x y z) = .next (u.withOperands x y z) := by
      rw [fsmProgress_withOperands, hu, chain_next]
    refine ⟨(hostOperands (s.withOperands x y z) (u.withOperands x y z)).consume, ?_, rfl⟩
    calc step (s.withOperands x y z)
      _ = chain (fsmProgress s.input s (s.withOperands x y z))
            fun v => .next (hostOperands (s.withOperands x y z) v).consume := step_of_not_accepts hr ha
      _ = .next (hostOperands (s.withOperands x y z) (u.withOperands x y z)).consume := by rw [hu', chain_next]

/-- Settles O28: the indexer gives entries of the table, and in HALF neighbours of the table for neighbours of the traversal. -/
theorem patternsEnergiseOneOrTwoCoils : Obligations.PatternsEnergiseOneOrTwoCoils := by
  intro t m d k p q hl
  refine ⟨fun hp => PatternTables.legal_popcount hl (pat_mem hp).2, ?_⟩
  rintro rfl hp hq
  obtain ⟨j, ⟨hp, hq⟩ | ⟨hq, hp⟩⟩ := pat_half_neighbours hp hq
  · exact PatternTables.legal_half_neighbours hl hp hq
  · rw [Nat.add_comm]
    exact PatternTables.legal_half_neighbours hl hq hp

/-- Settles O43, by the cases of a cycle: only SET_MODE and a successful INIT write MODE. -/
theorem modeWrittenOnlyBySetModeAndInit : Obligations.ModeWrittenOnlyBySetModeAndInit := by
  intro s t h hne
  rcases step_reset_or_running h with ⟨hr, -⟩ | ⟨-, hc⟩
  · exact .inl hr
  · cases hc with
    | selectMode hi => exact .inr (.inl hi)
    | configure hi => exact .inr (.inr ⟨hi, rfl⟩)
    | _ => simp at hne

/-- Settles O44, by the cases of a cycle; that LINES is fixed while configured follows, for INIT writes it in UNCFG only. -/
theorem configurationWriters : Obligations.ConfigurationWriters := by
  intro s t h
  have hdwell : t.dwell ≠ s.dwell →
      s.input.rst = true ∨ (CommandIssued .setDwell s ∧ t.err = .ok) ∨ (CommandIssued .init s ∧ t.err = .ok) := by
    intro hne
    rcases step_reset_or_running h with ⟨hr, -⟩ | ⟨-, hc⟩
    · exact .inl hr
    · cases hc with
      | selectDwell hi => exact .inr (.inl ⟨hi, rfl⟩)
      | configure hi => exact .inr (.inr ⟨hi, rfl⟩)
      | _ => simp at hne
  have hlines : t.lines ≠ s.lines → s.input.rst = true ∨ (CommandIssued .init s ∧ s.fsm = .uncfg ∧ t.err = .ok) := by
    intro hne
    rcases step_reset_or_running h with ⟨hr, -⟩ | ⟨-, hc⟩
    · exact .inl hr
    · cases hc with
      | configure hi hf => exact .inr ⟨hi, hf, rfl⟩
      | _ => simp at hne
  refine ⟨hdwell, hlines, fun hcfg hr => ?_⟩
  by_contra hne
  rcases hlines hne with hr' | ⟨-, hf, -⟩
  · simp [hr] at hr'
  · simp [State.configured, hf] at hcfg

/-- Settles O45, by the cases of a cycle: only an acknowledged write and a successful INIT write COIL. -/
theorem coilWriters : Obligations.CoilWriters := by
  intro s t h hne
  rcases step_reset_or_running h with ⟨hr, rfl⟩ | ⟨-, hc⟩
  · exact .inl ⟨hr, rfl⟩
  · cases hc with
    | configure hi hf => exact .inr (.inl ⟨hi, hf, rfl, rfl⟩)
    | wrote p hf hp he ha => exact .inr (.inr ⟨hf, ha, he, rfl, hp.symm⟩)
    | _ => simp at hne

/-- Settles O46, by the cases of a cycle: outside reset only INIT leaves UNCFG, and none returns to it. -/
theorem lifetimeFromInitToReset : Obligations.LifetimeFromInitToReset := by
  intro s t h
  rcases step_reset_or_running h with ⟨hr, rfl⟩ | ⟨-, hc⟩
  · exact ⟨fun _ hne => absurd rfl hne, fun _ _ => hr⟩
  · refine ⟨fun hf hne => ?_, fun hf ht => ?_⟩
    · cases hc with
      | configure hi => exact ⟨hi, rfl, rfl⟩
      | rest | report | hold => exact absurd hf hne
      | selectMode _ hs | selectDwell _ hs | start _ _ _ hs | wrote _ hs | waited hs => simp [hf] at hs
      | abort hb => simp [not_busy_of_uncfg hf] at hb
    · cases hc with
      | rest | report | hold | selectMode | selectDwell => exact absurd ht hf
      | waited => rcases advanceMove_fsm s s with hs | hs <;> simp [hs] at ht
      | configure | start | abort | wrote => simp at ht

/-- Settles O36: the reset column of R20, field by field of RESET_STATE. -/
theorem resetStateValues : Obligations.ResetStateValues :=
  ⟨rfl, rfl, rfl, rfl, rfl, rfl, rfl, rfl, rfl, rfl, rfl, rfl, rfl⟩

/-- Settles O54: each output port is the field of the state, or the value of it, that R22 names. -/
theorem outputPortsShowState : Obligations.OutputPortsShowState := by
  intro s hr
  have hread : (outputs s).busRdata = some (readValue s s.input.busAddr) := by simp [outputs, hr]
  have hen : (outputs s).lineEn = decide (s.fsm ≠ .uncfg) := by
    cases hf : s.fsm <;> simp [outputs, State.configured, hf]
  exact ⟨rfl, rfl, rfl, hen, rfl, rfl, hread, rfl⟩

end Sys2Proof

/-! ## Register words

SUPPORT. Which field each register word shows and which words a write reaches (20_memory.md R51, R57), and each bit of STATUS
(R53). -/

namespace Sys2Proof.Machine

/-! ### Reads and writes by word -/

/-- The reserved words read 0 (R58). -/
theorem readValue_reserved (s : State) {a : BitVec 4} (h : 9 ≤ a.toNat) : readValue s a = 0#32 := by
  unfold readValue
  split
  case h_9 => rfl
  all_goals omega

/-- A word above the operand registers is not written (R57). -/
theorem busWrite_ignored {a : BitVec 4} (h : 4 ≤ a.toNat) (v : Word) (s : State) : busWrite a v s = .next s := by
  have hne (k : BitVec 4) (hk : k.toNat < 4) : a ≠ k := by
    rintro rfl
    omega
  rw [busWrite_operands (hne 0#4 (by decide)), if_neg (hne 1#4 (by decide)), if_neg (hne 2#4 (by decide)),
    if_neg (hne 3#4 (by decide)), State.withOperands_self]

/-- A register word other than STATUS reads the same in two states that agree on the field it shows. -/
theorem readValue_congr {s t : State} {a : BitVec 4} (hstatus : a ≠ 4#4)
    (harg0 : t.arg0 = s.arg0) (harg1 : t.arg1 = s.arg1) (harg2 : t.arg2 = s.arg2)
    (hcoil : a = 5#4 → t.coil = s.coil) (hdwell : a = 6#4 → t.dwell = s.dwell)
    (hlines : a = 7#4 → t.lines = s.lines) (hremain : a = 8#4 → t.remain = s.remain) :
    readValue t a = readValue s a := by
  unfold readValue
  split
  case h_1 => exact harg0
  case h_2 => exact harg1
  case h_3 => exact harg2
  case h_4 h => exact absurd (BitVec.eq_of_toNat_eq h) hstatus
  case h_5 h => rw [hcoil (BitVec.eq_of_toNat_eq h)]
  case h_6 h => exact hdwell (BitVec.eq_of_toNat_eq h)
  case h_7 h => exact hlines (BitVec.eq_of_toNat_eq h)
  case h_8 h => exact hremain (BitVec.eq_of_toNat_eq h)
  case h_9 => rfl

/-! ### STATUS, bit by bit -/

theorem modeBit_eq (m : Mode) : modeBit m = BitVec.ofBool (decide (m = .half)) := by cases m <;> rfl

theorem directionBit_eq (d : Direction) : directionBit d = BitVec.ofBool (decide (d = .reverse)) := by cases d <;> rfl

theorem configured_eq_decide (s : State) : s.configured = decide (s.fsm ≠ .uncfg) := by
  cases hf : s.fsm <;> simp [State.configured, hf]

/-- Bit `b` of STATUS, from the top: the bit of the field that R53 places there. -/
def statusBit (s : State) (b : Nat) : Bool :=
  if 17 ≤ b then false
  else if b = 16 then decide (s.mvMode = .half)
  else if b = 15 then decide (s.mvDir = .reverse)
  else if 12 ≤ b then s.idx.getLsbD (b - 12)
  else if 8 ≤ b then s.err.bits.getLsbD (b - 8)
  else if 5 ≤ b then false
  else if b = 4 then decide (s.mode = .half)
  else if b = 3 then s.configured
  else if b = 2 then s.busy
  else s.fsm.bits.getLsbD b

theorem statusWord_getLsbD (s : State) (b : Nat) : (statusWord s).getLsbD b = statusBit s b := by
  rcases Nat.lt_or_ge b 17 with hb | hb
  · simp only [statusWord, modeBit_eq, directionBit_eq, BitVec.getLsbD_setWidth, BitVec.getLsbD_append,
      BitVec.getLsbD_ofBool, statusBit]
    interval_cases b <;> simp
  · simp [statusWord, statusBit, hb]

/-- A field of STATUS is the vector whose bits stand in its places. -/
theorem statusWord_field {s : State} {start n : Nat} {v : BitVec n}
    (h : ∀ i < n, statusBit s (start + i) = v.getLsbD i) : (statusWord s).extractLsb' start n = v := by
  refine BitVec.eq_of_getLsbD_eq fun i hi => ?_
  rw [BitVec.getLsbD_extractLsb', decide_eq_true hi, Bool.true_and, statusWord_getLsbD, h i hi]

/-- A bit of STATUS reads the same in two states that agree on the field it shows. -/
theorem statusWord_getLsbD_congr {s t : State} {b : Nat} (hfsm : b < 3 → t.fsm = s.fsm)
    (hcfg : b = 3 → t.configured = s.configured) (hmode : b = 4 → t.mode = s.mode)
    (herr : 8 ≤ b ∧ b ≤ 11 → t.err = s.err) (hidx : 12 ≤ b ∧ b ≤ 14 → t.idx = s.idx)
    (hmvDir : b = 15 → t.mvDir = s.mvDir) (hmvMode : b = 16 → t.mvMode = s.mvMode) :
    (statusWord t).getLsbD b = (statusWord s).getLsbD b := by
  simp only [statusWord_getLsbD, statusBit, State.busy]
  split_ifs with h17 h16 h15 h12 h8 h5 h4 h3 h2
  · rfl
  · rw [hmvMode h16]
  · rw [hmvDir h15]
  · rw [hidx (by omega)]
  · rw [herr (by omega)]
  · rfl
  · rw [hmode h4]
  · exact hcfg h3
  · rw [hfsm (by omega)]
  · rw [hfsm (by omega)]

end Sys2Proof.Machine

/-! ## Accesses and commands

SUPPORT. When a host access has an effect (20_memory.md R55, R56), and the states that a presented command can leave. -/

namespace Sys2Proof.Machine

/-! ### The host access -/

theorem busReady_presented {inp : CycleIn} (s : State) (hr : inp.rst = false) (hv : inp.busValid = true) :
    busReady inp s = !(inp.busWrite && (inp.busAddr == 0#4) && s.busy) := by
  simp [busReady, hr, hv]

theorem busReady_silent {inp : CycleIn} (s : State) (hr : inp.rst = false) (hv : inp.busValid = false) :
    busReady inp s = true := by
  simp [busReady, hr, hv]

/-- A CMD write presented during a move is held (R55). -/
theorem busReady_held {inp : CycleIn} {s : State} (hw : inp.busWrite = true) (ha : inp.busAddr = 0#4)
    (hv : inp.busValid = true) (hb : s.busy = true) : busReady inp s = false := by
  simp [busReady, hv, hw, ha, hb]

theorem hostAccess_silent {inp : CycleIn} (s : State) (hv : inp.busValid = false) : hostAccess inp s = .next s := by
  simp [hostAccess, accessPerformed, hv]

theorem hostAccess_not_ready {inp : CycleIn} {s : State} (h : busReady inp s = false) : hostAccess inp s = .next s := by
  simp [hostAccess, accessPerformed, h]

theorem hostAccess_read {inp : CycleIn} (s : State) (hw : inp.busWrite = false) : hostAccess inp s = .next s := by
  simp [hostAccess, hw]

/-- A cycle whose host access has no effect is the FSM progress alone. -/
theorem step_without_access {s : State} (hr : s.input.rst = false) (h : hostAccess s.input s = .next s) :
    step s = chain (fsmProgress s.input s s) fun t => .next t.consume := by
  rw [step_running hr, h, chain_next]

/-- A cycle that accepts a command word is `exec` of the command. -/
theorem step_accepts_exec {s : State} {i : Instr} (hr : s.input.rst = false) (ha : Accepts s)
    (hd : decode s.input.busWdata = .command i) : step s = chain (exec i s) fun t => .next t.consume := by
  rw [step_accepts_command hr ha hd, exec_eq_accepted, accepted_free _ (not_busy_of_accepts ha), chain_next]

/-- The FSM progress leaves this cycle's inputs as they are. -/
theorem fsmProgress_withInput (inp : CycleIn) (s t : State) (j : CycleIn) :
    fsmProgress inp s (t.withInput j) = chain (fsmProgress inp s t) fun u => .next (u.withInput j) := by
  have advance : advanceMove s (t.withInput j) = (advanceMove s t).withInput j := by
    unfold advanceMove
    split_ifs <;> rfl
  cases hf : s.fsm with
  | uncfg => simp [fsmProgress, hf]
  | idle => simp [fsmProgress, hf]
  | emit =>
    cases hp : pat s.tables s.mvMode s.mvDir s.idx.toNat with
    | none => simp [fsmProgress, hf, hp]
    | some p =>
      simp only [fsmProgress_emit hf hp, chain_next, emitProgress]
      split_ifs <;> rfl
  | dwell =>
    simp only [fsmProgress_dwell hf, chain_next, dwellProgress, advance]
    split_ifs <;> rfl

/-- The same inputs with no access presented on the bus. -/
def CycleIn.silent (inp : CycleIn) : CycleIn := { inp with busValid := false }

/-- Of a cycle's inputs the FSM progress reads the platform's answers alone, not the request on the bus. -/
theorem fsmProgress_silent (inp : CycleIn) (s t : State) :
    fsmProgress inp.silent (s.withInput inp.silent) t = fsmProgress inp s t := rfl

/-- A cycle with a read is the cycle without the access (R56). -/
theorem step_read {s : State} (hw : s.input.busWrite = false) : step s = step (s.withInput s.input.silent) := by
  cases hr : s.input.rst with
  | true =>
    have hr' : (s.withInput s.input.silent).input.rst = true := hr
    rw [step_reset hr, step_reset hr']
    rfl
  | false =>
    have hr' : (s.withInput s.input.silent).input.rst = false := hr
    rw [step_without_access hr (hostAccess_read s hw), step_without_access hr' (hostAccess_silent _ rfl),
      State.withInput_input, fsmProgress_silent, fsmProgress_withInput]
    cases fsmProgress s.input s s <;> rfl

theorem outputs_busRdata {s : State} (hr : s.input.rst = false) :
    (outputs s).busRdata = some (readValue s s.input.busAddr) := by simp [outputs, hr]

/-! ### What a presented command can leave -/

/-- What command `i`, presented in `s`, can make of the state. -/
inductive CommandResult (s : State) : Instr → State → Prop where
  /-- ERR alone is written, or, while the command is held, nothing -/
  | report (i : Instr) (e : ErrCode) : CommandResult s i { s with err := e }
  /-- INIT succeeds (R111) -/
  | configure (hf : s.fsm = .uncfg) :
    CommandResult s .init
      { s with lines := s.arg0, mode := modeOf s.arg1, dwell := s.arg2, coil := 0#4, fsm := .idle, err := .ok }
  /-- SET_MODE succeeds (R120) -/
  | selectMode : CommandResult s .setMode { s with mode := modeOf s.arg0, err := .ok }
  /-- SET_DWELL succeeds (R130) -/
  | selectDwell : CommandResult s .setDwell { s with dwell := s.arg0, err := .ok }
  /-- STEP starts a move (R145) -/
  | step (d : Direction) (n : Int) (hf : s.fsm = .idle) (h0 : 0 < n) : CommandResult s (.step d) (startMove n d s)
  /-- ROTATE starts a move (R152) -/
  | rotate (d : Direction) (n : Int) (hf : s.fsm = .idle) (h0 : 0 < n) : CommandResult s (.rotate d) (startMove n d s)

theorem commandResult_of_exec {i : Instr} {s t : State} (h : exec i s = .next t) : CommandResult s i t := by
  rw [exec_eq_accepted] at h
  rcases accepted_cases h with ⟨-, rfl⟩ | ⟨hb, rfl⟩
  · exact .report i t.err
  · rcases effect_cases i s hb with
      ⟨e, he⟩ | ⟨rfl, hf, -, he⟩ | ⟨rfl, -, he⟩ | ⟨rfl, -, -, he⟩ | ⟨hf, d, n, hi, h0, -, he⟩ <;> rw [he]
    · exact .report i e
    · exact .configure hf
    · exact .selectMode
    · exact .selectDwell
    · rw [← startMove_positive h0]
      rcases hi with rfl | rfl
      · exact .step d n hf h0
      · exact .rotate d n hf h0

/-- STEP and ROTATE write ERR alone, or start a move out of IDLE. -/
theorem move_cases {s t : State} {d : Direction} (h : exec (.step d) s = .next t ∨ exec (.rotate d) s = .next t) :
    (∃ e, t = { s with err := e }) ∨
    (∃ n, s.fsm = .idle ∧ t = { s with
      mvMode := s.mode, mvDir := d, remain := BitVec.ofInt 32 n, idx := 0#3, err := .ok, fsm := .emit }) := by
  rcases h with h | h
  · cases commandResult_of_exec h with
    | report _ e => exact .inl ⟨e, rfl⟩
    | step _ n hf h0 => exact .inr ⟨n, hf, startMove_positive h0 d s⟩
  · cases commandResult_of_exec h with
    | report _ e => exact .inl ⟨e, rfl⟩
    | rotate _ n hf h0 => exact .inr ⟨n, hf, startMove_positive h0 d s⟩

/-- A command of the opcode table's numbering is the command its word decodes to. -/
theorem decode_of_decodeTableWord {nbits w : Nat} {i : Instr} (h : decodeTableWord nbits w = some i) :
    decode (BitVec.ofNat 32 (w % 2 ^ nbits)) = .command i := by
  simp only [decodeTableWord] at h
  split at h
  · split at h
    · rename_i hd
      cases h
      exact hd
    · cases h
  · cases h

end Sys2Proof.Machine

/-! ## The statements of 20_memory.md

The register map, STATUS, the frames of the commands as the host reads them, and the accesses a move holds. -/

namespace Sys2Proof

open Sys2Proof.Machine Sys2Proof.Safety

/-- Settles O17: of the fields that a command writes, the host reads only those of the excepted words outside STATUS. -/
theorem registerWordsFrame : Obligations.RegisterWordsFrame := by
  intro s t d a hstatus
  have report (e : ErrCode) : readValue { s with err := e } a = readValue s a :=
    readValue_congr hstatus rfl rfl rfl (fun _ => rfl) (fun _ => rfl) (fun _ => rfl) (fun _ => rfl)
  refine ⟨fun h h5 h6 h7 => ?_, fun h => ?_, fun h h6 => ?_, fun h h8 => ?_⟩
  · cases commandResult_of_exec h with
    | report _ e => exact report e
    | configure =>
      exact readValue_congr hstatus rfl rfl rfl (fun h => absurd h h5) (fun h => absurd h h6) (fun h => absurd h h7)
        (fun _ => rfl)
  · cases commandResult_of_exec h with
    | report _ e => exact report e
    | selectMode => exact readValue_congr hstatus rfl rfl rfl (fun _ => rfl) (fun _ => rfl) (fun _ => rfl) (fun _ => rfl)
  · cases commandResult_of_exec h with
    | report _ e => exact report e
    | selectDwell =>
      exact readValue_congr hstatus rfl rfl rfl (fun _ => rfl) (fun h => absurd h h6) (fun _ => rfl) (fun _ => rfl)
  · rcases move_cases h with ⟨e, rfl⟩ | ⟨n, -, rfl⟩
    · exact report e
    · exact readValue_congr hstatus rfl rfl rfl (fun _ => rfl) (fun _ => rfl) (fun _ => rfl) (fun h => absurd h h8)

/-- Settles O18: each place of STATUS shows one field, and the excepted places are those of the fields that the command
writes. -/
theorem statusBitsFrame : Obligations.StatusBitsFrame := by
  intro s t d b
  have report (e : ErrCode) (herr : ¬ (8 ≤ b ∧ b ≤ 11)) :
      (statusWord { s with err := e }).getLsbD b = (statusWord s).getLsbD b :=
    statusWord_getLsbD_congr (fun _ => rfl) (fun _ => rfl) (fun _ => rfl) (fun h => absurd h herr) (fun _ => rfl)
      (fun _ => rfl) (fun _ => rfl)
  refine ⟨fun h h4 herr => ?_, fun h h4 herr => ?_, fun h herr => ?_, fun h h2 h16 => ?_⟩
  · cases commandResult_of_exec h with
    | report _ e => exact report e herr
    | configure =>
      exact statusWord_getLsbD_congr (by omega) (by omega) (by omega) (fun h => absurd h herr) (fun _ => rfl)
        (fun _ => rfl) (fun _ => rfl)
  · cases commandResult_of_exec h with
    | report _ e => exact report e herr
    | selectMode =>
      exact statusWord_getLsbD_congr (fun _ => rfl) (fun _ => rfl) (fun h => absurd h h4) (fun h => absurd h herr)
        (fun _ => rfl) (fun _ => rfl) (fun _ => rfl)
  · cases commandResult_of_exec h with
    | report _ e => exact report e herr
    | selectDwell =>
      exact statusWord_getLsbD_congr (fun _ => rfl) (fun _ => rfl) (fun _ => rfl) (fun h => absurd h herr)
        (fun _ => rfl) (fun _ => rfl) (fun _ => rfl)
  · rcases move_cases h with ⟨e, rfl⟩ | ⟨n, hf, rfl⟩
    · exact report e (by omega)
    · exact statusWord_getLsbD_congr (by omega) (fun _ => by simp [configured_eq_decide, hf]) (fun _ => rfl)
        (by omega) (by omega) (by omega) (by omega)

/-- Settles O22: the encodings by their definitions, and each field of STATUS by the bits at its places. -/
theorem statusLayout : Obligations.StatusLayout := by
  refine ⟨⟨rfl, rfl, rfl, rfl⟩, ⟨rfl, rfl, rfl, rfl, rfl, rfl, rfl⟩, fun s => ?_⟩
  have hfsm : (statusWord s).extractLsb' 0 2 = s.fsm.bits := statusWord_field fun i hi => by interval_cases i <;> rfl
  have hcfg : (statusWord s).getLsbD 3 = decide (s.fsm ≠ .uncfg) :=
    (statusWord_getLsbD s 3).trans (configured_eq_decide s)
  have hgap : (statusWord s).extractLsb' 5 3 = 0#3 := statusWord_field fun i hi => by interval_cases i <;> rfl
  have herr : (statusWord s).extractLsb' 8 4 = s.err.bits := statusWord_field fun i hi => by interval_cases i <;> rfl
  have hidx : (statusWord s).extractLsb' 12 3 = s.idx := statusWord_field fun i hi => by interval_cases i <;> rfl
  have htop : (statusWord s).extractLsb' 17 15 = 0#15 := statusWord_field fun i _ => by simp [statusBit]
  exact ⟨hfsm, statusWord_getLsbD s 2, hcfg, statusWord_getLsbD s 4, hgap, herr, hidx, statusWord_getLsbD s 15,
    statusWord_getLsbD s 16, htop, fun v => busWrite_ignored (by decide) v s⟩

/-- Settles O24: a read has no effect as a host access, and the FSM progress does not see the bus ports. -/
theorem readsChangeNothing : Obligations.ReadsChangeNothing := by
  intro s inp rest hw
  exact ⟨step_read (s := { s with inputs := inp :: rest }) hw,
    fun hr => outputs_busRdata (s := { s with inputs := inp :: rest }) hr⟩

/-- Settles O50, by induction on the cycles of the move: each holds the write, and the host presents it again in the next. -/
theorem heldCommandRunsAfterMove : Obligations.HeldCommandRunsAfterMove := by
  intro k
  induction k with
  | zero =>
    intro s t hv hw ha hrun _ hb hr
    cases hrun
    exact ⟨by simp [accessPerformed, busReady_presented _ hr hv, hv, hb], hw, ha, rfl⟩
  | succ k ih =>
    intro s t hv hw ha hrun hmove hb hr
    obtain ⟨s', hstep, hrun⟩ := chain_eq_next hrun
    have unroll (j : Nat) : runCycles (j + 1) s = runCycles j s' := by simp [runCycles, hstep]
    obtain ⟨hbusy, hrst, hholds⟩ := hmove 0 k.succ_pos s s' rfl (unroll 0)
    obtain ⟨hv', hw', ha', hd'⟩ := hholds hrst hv (busReady_held hw ha hv hbusy)
    rw [hw] at hw'
    rw [ha] at ha'
    rw [← hd']
    refine ih s' t hv' hw' ha' hrun (fun j hj u v hu hu' => ?_) hb hr
    rw [← unroll] at hu hu'
    exact hmove (j + 1) (Nat.succ_lt_succ hj) u v hu hu'

/-- Settles O14: every command is its effect, accepted, and acceptance leaves a moving state as it is. -/
theorem commandIsHeldDuringMove : Obligations.CommandIsHeldDuringMove := by
  intro i s h
  rw [exec_eq_accepted, accepted_busy _ (busy_eq_true.mpr h)]

/-- Settles O20: outside a move the presented word is accepted and the FSM makes no progress; during one the write is held. -/
theorem stepRunsDecodedCommand : Obligations.StepRunsDecodedCommand := by
  refine ⟨fun s hr hv hw ha => ⟨fun i hb hd => ?_, fun r hb hd => ?_, fun hb => ?_⟩, fun s w i hb hd => ?_⟩
  · exact step_accepts_exec hr ⟨hv, hw, ha, hb⟩ hd
  · exact step_accepts_illegal hr ⟨hv, hw, ha, hb⟩ hd
  · exact step_without_access hr (hostAccess_not_ready (busReady_held hw ha hv hb))
  · exact step_accepts_exec (s := s.withFetchWord 32 w) rfl ⟨rfl, rfl, rfl, hb⟩ (decode_of_decodeTableWord hd)

/-- Settles O21: the table of R51 row by row; the reserved words as one range, and the words that no write reaches as
another. -/
theorem registerMapReadsAndWrites : Obligations.RegisterMapReadsAndWrites := by
  intro s v
  exact ⟨⟨rfl, rfl, rfl, rfl, rfl, rfl, rfl, rfl, rfl⟩, fun a ha => readValue_reserved s ha, rfl, rfl, rfl, rfl,
    fun a ha => busWrite_ignored ha v s⟩

/-- Settles O23: `bus_ready` in the three kinds of cycle, and an access that is not performed has no effect. -/
theorem busHoldsOnlyCmdDuringMove : Obligations.BusHoldsOnlyCmdDuringMove := by
  intro s inp
  have reset (hr : inp.rst = true) : busReady inp s = false := by simp [busReady, hr]
  refine ⟨busReady_presented s, fun hr => ⟨reset hr, hostAccess_not_ready (reset hr)⟩,
    fun hr hv => ⟨busReady_silent s hr hv, hostAccess_silent s hv⟩, hostAccess_not_ready,
    fun hv hready => ?_, fun hr => ?_⟩
  · simp [hostAccess, accessPerformed, hv, hready]
  · cases hv : inp.busValid with
    | false => simp [accessPerformed, hv]
    | true => rw [accessPerformed, busReady_presented s hr hv, hv, State.busy]

end Sys2Proof

/-! ## The decoder

SUPPORT. What the decoder of 30_encoding.md R84 can answer, said once on the three fields of a word (R80-R83, R92), and the words that
each row of the opcode map matches (R85). -/

namespace Sys2Proof

/-! ### A word and its fields (R80) -/

@[simp] theorem CommandFields.word_ofWord (w : Word) : (CommandFields.ofWord w).word = w := by
  have hhigh : w.extractLsb' 6 26 ++ w.extractLsb' 4 2 = w.extractLsb' 4 28 :=
    BitVec.extractLsb'_append_extractLsb'_eq_extractLsb' rfl
  have hall : w.extractLsb' 4 28 ++ w.extractLsb' 0 4 = w.extractLsb' 0 32 :=
    BitVec.extractLsb'_append_extractLsb'_eq_extractLsb' rfl
  rw [CommandFields.word, CommandFields.ofWord, hhigh, hall, BitVec.extractLsb'_eq_self]

@[simp] theorem CommandFields.ofWord_word (f : CommandFields) : CommandFields.ofWord f.word = f := by
  have hop : f.word.extractLsb' 0 4 = f.op := BitVec.extractLsb'_append_eq_right
  have hhigh (start len : Nat) : f.word.extractLsb' (start + 4) len = (f.rsv ++ f.dir).extractLsb' start len := by
    rw [CommandFields.word, BitVec.extractLsb'_append_eq_of_le (Nat.le_add_left 4 start), Nat.add_sub_cancel]
  have hdir : f.word.extractLsb' 4 2 = f.dir := (hhigh 0 2).trans BitVec.extractLsb'_append_eq_right
  have hrsv : f.word.extractLsb' 6 26 = f.rsv := (hhigh 2 26).trans BitVec.extractLsb'_append_eq_left
  simp only [CommandFields.ofWord, hop, hdir, hrsv]

theorem eq_encode_iff {w : Word} {i : Instr} : w = encode i ↔ CommandFields.ofWord w = i.fields := by
  constructor
  · rintro rfl
    exact CommandFields.ofWord_word i.fields
  · intro h
    rw [encode, ← h, CommandFields.word_ofWord]

/-! ### What the decoder can answer -/

/-- The answers of `decode` on a word with the fields `f`: a command, or one of the four cases of R92. -/
inductive DecodeCase (f : CommandFields) : Decoded → Prop where
  | command (i : Instr) (hf : f = i.fields) : DecodeCase f (.command i)
  | reservedBits (hr : f.rsv ≠ 0#26) : DecodeCase f (.illegal .reservedBits)
  | unknownOpcode (ho : f.op = 0x0#4 ∨ 6 ≤ f.op.toNat) : DecodeCase f (.illegal .unknownOpcode)
  | directionNotTaken (ho : f.op = 0x1#4 ∨ f.op = 0x2#4 ∨ f.op = 0x5#4) (hd : f.dir ≠ 0b00#2) :
    DecodeCase f (.illegal .directionNotTaken)
  | directionInvalid (ho : f.op = 0x3#4 ∨ f.op = 0x4#4) (hd : f.dir = 0b00#2 ∨ f.dir = 0b10#2) :
    DecodeCase f (.illegal .directionInvalid)

theorem decodeWithoutDirection_case {i : Instr} {f : CommandFields}
    (hi : i.fields = { op := f.op, dir := 0b00#2, rsv := f.rsv }) (ho : f.op = 0x1#4 ∨ f.op = 0x2#4 ∨ f.op = 0x5#4) :
    DecodeCase f (decodeWithoutDirection i f.dir) := by
  unfold decodeWithoutDirection
  split_ifs with hd
  · exact .command i (by rw [hi, ← hd])
  · exact .directionNotTaken ho hd

theorem decodeDirected_case {mk : Direction → Instr} {f : CommandFields}
    (hi : ∀ d, (mk d).fields = { op := f.op, dir := directionField d, rsv := f.rsv }) (ho : f.op = 0x3#4 ∨ f.op = 0x4#4) :
    DecodeCase f (decodeDirected mk f.dir) := by
  unfold decodeDirected
  split_ifs with hforward hreverse
  · exact .command _ (by rw [hi, directionField, ← hforward])
  · exact .command _ (by rw [hi, directionField, ← hreverse])
  · exact .directionInvalid ho (by bv_omega)

/-- The one case analysis of the decoder. -/
theorem decode_case (w : Word) : DecodeCase (CommandFields.ofWord w) (decode w) := by
  unfold decode
  generalize CommandFields.ofWord w = f
  dsimp only
  split_ifs with hr h1 h2 h3 h4 h5
  · exact .reservedBits hr
  all_goals rw [not_not] at hr
  · exact decodeWithoutDirection_case (by rw [h1, hr]; rfl) (.inl h1)
  · exact decodeWithoutDirection_case (by rw [h2, hr]; rfl) (.inr (.inl h2))
  · exact decodeDirected_case (fun d => by rw [h3, hr]; rfl) (.inl h3)
  · exact decodeDirected_case (fun d => by rw [h4, hr]; rfl) (.inr h4)
  · exact decodeWithoutDirection_case (by rw [h5, hr]; rfl) (.inr (.inr h5))
  · exact .unknownOpcode (by bv_omega)

@[simp] theorem decode_encode (i : Instr) : decode (encode i) = .command i := by
  cases i with
  | init | setMode | setDwell => rfl
  | step d | rotate d => cases d <;> rfl

theorem decode_eq_command_iff {w : Word} {i : Instr} : decode w = .command i ↔ w = encode i := by
  constructor
  · intro h
    have hc := decode_case w
    rw [h] at hc
    cases hc with
    | command _ hf => exact eq_encode_iff.mpr hf
  · rintro rfl
    exact decode_encode i

theorem encode_injective {i j : Instr} (h : encode i = encode j) : i = j := by
  have hc := decode_encode i
  rw [h, decode_encode] at hc
  cases hc
  rfl

theorem decode_eq_illegal_iff {w : Word} : (∃ r, decode w = .illegal r) ↔ ∀ i, w ≠ encode i := by
  simp only [ne_eq, ← decode_eq_command_iff]
  cases decode w with
  | command i => simp
  | illegal r => simp

/-! ### The opcode map (R85) -/

/-- The seven commands, in the order of R81 and R82. -/
def Instr.all : List Instr :=
  [.init, .setMode, .step .forward, .step .reverse, .rotate .forward, .rotate .reverse, .setDwell]

@[simp] theorem Instr.mem_all (i : Instr) : i ∈ Instr.all := by
  cases i with
  | init | setMode | setDwell => decide
  | step d | rotate d => cases d <;> decide

theorem Instr.opcodeRow (i : Instr) : Laws.OpcodeRow.Statement i := by
  cases i with
  | init => exact Laws.OpcodeRow.init
  | setMode => exact Laws.OpcodeRow.setMode
  | step d => exact Laws.OpcodeRow.step d
  | rotate d => exact Laws.OpcodeRow.rotate d
  | setDwell => exact Laws.OpcodeRow.setDwell

theorem Instr.row_mem (i : Instr) : i.row ∈ opcodeMap := by
  obtain ⟨-, -, hmem, -⟩ := i.opcodeRow
  exact hmem

theorem Instr.row_matches_encode (i : Instr) : i.row.matches (encode i) = true := by
  obtain ⟨-, -, -, hmatch⟩ := i.opcodeRow
  exact hmatch

theorem eq_row_of_mem_opcodeMap {r : OpcodeRow} (h : r ∈ opcodeMap) : ∃ i : Instr, r = i.row := by
  simp only [opcodeMap, List.mem_cons, List.not_mem_nil, or_false] at h
  rcases h with h | h | h | h | h <;> exact ⟨_, h⟩

/-- The mask of a directed command leaves bit 5 alone free: the two words of a row are those of its two directions. -/
theorem eq_of_and_reverseMask {w p : Word} (h : w &&& 0xFFFFFFDF#32 = p) : w = p ∨ w = p ||| 0x20#32 := by
  have hsplit : w = (w &&& 0xFFFFFFDF#32) ||| (w &&& BitVec.twoPow 32 5) := by
    rw [← BitVec.and_or_distrib_left]
    exact (BitVec.and_allOnes (x := w)).symm
  rw [h, BitVec.and_twoPow] at hsplit
  split at hsplit
  · exact .inr hsplit
  · exact .inl (hsplit.trans BitVec.or_zero)

/-- A row of the opcode map matches the words of its own commands only. -/
theorem eq_encode_of_row_matches {i : Instr} {w : Word} (h : i.row.matches w = true) :
    ∃ j : Instr, j.row = i.row ∧ w = encode j := by
  have hmatch : w &&& i.row.mask = i.row.pattern := by simpa [OpcodeRow.matches] using h
  cases i with
  | init | setMode | setDwell => exact ⟨_, rfl, BitVec.and_allOnes.symm.trans hmatch⟩
  | step d =>
    rcases eq_of_and_reverseMask hmatch with hw | hw
    · exact ⟨.step .forward, rfl, hw⟩
    · exact ⟨.step .reverse, rfl, hw.trans (show 0x13#32 ||| 0x20#32 = encode (.step .reverse) by decide)⟩
  | rotate d =>
    rcases eq_of_and_reverseMask hmatch with hw | hw
    · exact ⟨.rotate .forward, rfl, hw⟩
    · exact ⟨.rotate .reverse, rfl, hw.trans (show 0x14#32 ||| 0x20#32 = encode (.rotate .reverse) by decide)⟩

end Sys2Proof

/-! ## Operands and host programs

SUPPORT. That no command but INIT reads ARG1 and ARG2 (30_encoding.md R86), which strings pack to the half tag (R88), and when a line of
a host program is done (R94, R95). -/

namespace Sys2Proof.Machine

/-! ### ARG1 and ARG2 (R86) -/

/-- `s` with other values of the operand registers that INIT alone reads. -/
def State.withInitOperands (s : State) (x y : Word) : State := s.withOperands s.arg0 x y

theorem accepted_comm {f g : State → State} {s : State} (hb : (g s).busy = s.busy) (hf : f (g s) = g (f s)) :
    accepted f (g s) = chain (accepted f s) fun t => .next (g t) := by
  cases h : s.busy with
  | true => rw [accepted_busy f h, accepted_busy f (hb.trans h), chain_next]
  | false => rw [accepted_free f h, accepted_free f (hb.trans h), chain_next, hf]

theorem whenConfigured_withInitOperands {f : State → State} {s : State} {x y : Word}
    (hf : f (s.withInitOperands x y) = (f s).withInitOperands x y) :
    whenConfigured f (s.withInitOperands x y) = (whenConfigured f s).withInitOperands x y := by
  by_cases h : s.fsm = .uncfg
  · rw [whenConfigured_uncfg f h, whenConfigured_uncfg f (s := s.withInitOperands x y) h]
    rfl
  · have hne : (s.withInitOperands x y).fsm ≠ .uncfg := h
    simp only [whenConfigured, if_neg h, if_neg hne, hf]

theorem startMove_withInitOperands (n : Int) (d : Direction) (s : State) (x y : Word) :
    startMove n d (s.withInitOperands x y) = (startMove n d s).withInitOperands x y := by
  unfold startMove
  split <;> rfl

/-- A command other than INIT neither reads nor writes ARG1 and ARG2. -/
theorem effect_withInitOperands {i : Instr} (hi : i ≠ .init) (s : State) (x y : Word) :
    effect i (s.withInitOperands x y) = (effect i s).withInitOperands x y := by
  cases i with
  | init => exact absurd rfl hi
  | setMode => exact whenConfigured_withInitOperands (f := fun s => { s with mode := modeOf s.arg0, err := .ok }) rfl
  | step d =>
    exact whenConfigured_withInitOperands (f := fun s => startMove (passCount s.arg0) d s)
      (startMove_withInitOperands (passCount s.arg0) d s x y)
  | rotate d =>
    exact whenConfigured_withInitOperands (f := fun s => startMove (rotatePasses s.mode s.arg0) d s)
      (startMove_withInitOperands (rotatePasses s.mode s.arg0) d s x y)
  | setDwell =>
    refine whenConfigured_withInitOperands (f := fun s =>
      if dwellValid s.arg0 then { s with dwell := s.arg0, err := .ok } else raiseErr .invalidArgument s) ?_
    have hdwell : dwellValid (s.withInitOperands x y).arg0 = dwellValid s.arg0 := rfl
    rw [hdwell]
    cases dwellValid s.arg0 <;> rfl

/-! ### Mode tags (R88) -/

/-- The code that a configuration reports does not depend on the mode tag. -/
theorem configureLines_err_withTag (s : State) (tag : Word) :
    (configureLines { s with arg1 := tag }).err = (configureLines s).err := by
  have hinput : State.input { s with arg1 := tag } = s.input := input_congr rfl rfl
  simp only [configureLines, hinput]
  split_ifs <;> rfl

theorem modeOf_eq_half_iff {tag : Word} : modeOf tag = .half ↔ tag = Config.halfTag := by
  by_cases h : tag = Config.halfTag <;> simp [modeOf, h]

theorem append_bits_inj {m n : Nat} {a a' : BitVec m} {b b' : BitVec n} (h : a ++ b = a' ++ b') : a = a' ∧ b = b' := by
  have hhigh := congrArg (BitVec.extractLsb' n m) h
  have hlow := congrArg (BitVec.extractLsb' 0 n) h
  rw [BitVec.extractLsb'_append_eq_left, BitVec.extractLsb'_append_eq_left] at hhigh
  rw [BitVec.extractLsb'_append_eq_right, BitVec.extractLsb'_append_eq_right] at hlow
  exact ⟨hhigh, hlow⟩

/-- A word determines its four bytes. -/
theorem bytes_inj {a b c d a' b' c' d' : Byte} (h : a ++ b ++ c ++ d = a' ++ b' ++ c' ++ d') :
    a = a' ∧ b = b' ∧ c = c' ∧ d = d' := by
  obtain ⟨h, hd⟩ := append_bits_inj h
  obtain ⟨h, hc⟩ := append_bits_inj h
  obtain ⟨ha, hb⟩ := append_bits_inj h
  exact ⟨ha, hb, hc, hd⟩

/-- Of all strings "half" alone packs to the half tag: a longer one gets another tag, a shorter one ends in 0x00. -/
theorem packText_eq_half_iff {chars : List Byte} :
    packText chars = Config.halfTag ↔ chars = [0x68#8, 0x61#8, 0x6C#8, 0x66#8] := by
  constructor
  · intro h
    rcases Nat.lt_or_ge 4 chars.length with hlen | hlen
    · rw [packText_uncarried hlen] at h
      exact absurd h (uncarriedTag_ne_half chars)
    · have hbytes : chars.getD 0 0#8 ++ chars.getD 1 0#8 ++ chars.getD 2 0#8 ++ chars.getD 3 0#8 =
          0x68#8 ++ 0x61#8 ++ 0x6C#8 ++ 0x66#8 := (packText_carried hlen).symm.trans h
      obtain ⟨h0, h1, h2, h3⟩ := bytes_inj hbytes
      match chars with
      | [] | [_] | [_, _] | [_, _, _] => exact absurd (show 0#8 = 0x66#8 from h3) (by decide)
      | [_, _, _, _] => cases h0; cases h1; cases h2; cases h3; rfl
      | _ :: _ :: _ :: _ :: _ :: _ => simp only [List.length_cons] at hlen; omega
  · rintro rfl
    decide

/-! ### Host lines (R94, R95) -/

theorem accessPerformed_request {inp : CycleIn} (hr : inp.rst = false) (write : Bool) (a : BitVec 4) (v : Word) (s : State) :
    accessPerformed (inp.request write a v) s = !(write && (a == 0#4) && s.busy) := by
  simp [accessPerformed, busReady, CycleIn.request, hr]

/-- WAITIDLE's question is BUSY (R53). -/
theorem readStatus_busy (s : State) : (readValue s RegName.status.index).getLsbD 2 = s.busy := statusWord_getLsbD s 2

/-- A line that has to wait for the end of a move: one that writes CMD, or WAITIDLE. -/
abbrev HostOp.Waits (op : HostOp) : Prop := (op.triple.1 = true ∧ op.triple.2.1 = 0#4) ∨ op = .waitIdle

@[simp] theorem HostOp.waits_command (i : Instr) : (HostOp.command i).Waits := .inl ⟨rfl, rfl⟩

@[simp] theorem HostOp.waits_waitIdle : HostOp.waitIdle.Waits := .inr rfl

@[simp] theorem HostOp.waits_wr (r : RegName) (v : HostValue) : (HostOp.wr r v).Waits ↔ r.index = 0#4 := by
  simp [HostOp.Waits, HostOp.triple]

@[simp] theorem HostOp.not_waits_rd (r : RegName) : ¬ (HostOp.rd r).Waits := by simp [HostOp.Waits, HostOp.triple]

/-- During a move the lines that have to wait stay; every other line, and every line outside a move, is done in one cycle. -/
theorem hostCycle_left {s : State} (hr : s.input.rst = false) (op : HostOp) (ops : List HostOp) :
    (hostCycle (op :: ops) s).1 = if op.Waits ∧ s.busy = true then op :: ops else ops := by
  have hbusy (inp : CycleIn) : (s.withInput inp).busy = s.busy := rfl
  simp only [hostCycle, hostLeft, hostPresents, State.withInput_input, accessPerformed_request hr, readStatus_busy, hbusy]
  cases hb : s.busy with
  | false => simp
  | true =>
    by_cases hcmd : op.triple.1 = true ∧ op.triple.2.1 = 0#4
    · simp [hcmd]
    · by_cases hw : op = .waitIdle
      · simp [hw, HostOp.triple]
      · simp [HostOp.Waits, hcmd, hw]

end Sys2Proof.Machine

/-! ## The statements of 30_encoding.md

Decoder and encoder, the opcode map, the operands a command reads, mode tags, and host programs. -/

namespace Sys2Proof

open Sys2Proof.Machine Sys2Proof.Safety

/-- Settles O2, by the case analysis of the decoder on the three fields, which determine the word. -/
theorem decodeEncodeAgree : Obligations.DecodeEncodeAgree := by
  intro w i
  exact decode_eq_command_iff

/-- Settles O3: a row matches the words of its own commands only, and a word is the encoding of at most one command. -/
theorem opcodeMapMatchesDecoder : Obligations.OpcodeMapMatchesDecoder := by
  refine ⟨rfl, fun w => ⟨fun i hd => ?_, fun x hd r hr => ?_, fun d hd => ?_, ?_⟩⟩
  · obtain rfl := decode_eq_command_iff.mp hd
    refine ⟨i.row_mem, i.row_matches_encode, fun r hr hm => ?_⟩
    obtain ⟨k, rfl⟩ := eq_row_of_mem_opcodeMap hr
    obtain ⟨j, hrow, hw⟩ := eq_encode_of_row_matches hm
    rw [← hrow, encode_injective hw]
  · obtain ⟨k, rfl⟩ := eq_row_of_mem_opcodeMap hr
    refine Bool.eq_false_iff.mpr fun hm => ?_
    obtain ⟨j, -, hw⟩ := eq_encode_of_row_matches hm
    exact decode_eq_illegal_iff.mp ⟨x, hd⟩ j hw
  · rw [decode_eq_command_iff, decode_eq_command_iff] at hd
    rcases hd with rfl | rfl <;> cases d <;> decide
  · have hwords : Instr.all.map encode = [0x00000001#32, 0x00000002#32, 0x00000013#32, 0x00000033#32, 0x00000014#32,
        0x00000034#32, 0x00000005#32] := by decide
    rw [← hwords, List.mem_map]
    simp only [Instr.mem_all, true_and, decode_eq_command_iff, eq_comm]

/-- Settles O4: the decoder's illegal cases are those of R92, the fields of a command meet none of them, and an illegal word accepted
outside a move writes ERR alone. -/
theorem illegalWordsOnlySetErr : Obligations.IllegalWordsOnlySetErr := by
  refine fun w => ⟨⟨fun ⟨r, hd⟩ => ?_, fun hcases => ?_⟩, fun s r hd hf => ?_⟩
  · have hc := decode_case w
    rw [hd] at hc
    cases hc with
    | reservedBits hr => exact .inl hr
    | unknownOpcode ho =>
      rcases ho with ho | ho
      · exact .inr (.inl ho)
      · exact .inr (.inr (.inl ho))
    | directionNotTaken ho hdir => exact .inr (.inr (.inr (.inl ⟨ho, hdir⟩)))
    | directionInvalid ho hdir => exact .inr (.inr (.inr (.inr ⟨ho, hdir⟩)))
  · refine decode_eq_illegal_iff.mpr fun i hw => ?_
    have hfields := eq_encode_iff.mp hw
    have hop : w.extractLsb' 0 4 = i.fields.op := congrArg CommandFields.op hfields
    have hdir : w.extractLsb' 4 2 = i.fields.dir := congrArg CommandFields.dir hfields
    have hrsv : w.extractLsb' 6 26 = i.fields.rsv := congrArg CommandFields.rsv hfields
    rw [hop, hdir, hrsv] at hcases
    revert hcases
    cases i with
    | init | setMode | setDwell => decide
    | step d | rotate d => cases d <;> decide
  · rw [acceptWord_free w (busy_eq_false.mpr hf), hd]
    rfl

/-- Settles O19: every command is its effect, accepted, and the effect of a command other than INIT does not read ARG1 and ARG2. -/
theorem unreadOperandsHaveNoEffect : Obligations.UnreadOperandsHaveNoEffect := by
  intro s x y i hi
  rw [exec_eq_accepted, exec_eq_accepted]
  exact accepted_comm (g := fun t => t.withInitOperands x y) rfl (effect_withInitOperands hi s x y)

/-- Settles O53: the lines that have to wait are the CMD writes and WAITIDLE. -/
theorem hostWaitsForMove : Obligations.HostWaitsForMove := by
  intro ops s hr
  simp only [hostCycle_left hr]
  refine ⟨fun i hb => ?_, fun i hb => ?_, fun r v h0 => ?_, fun r => ?_, fun r v h0 => ?_, ?_⟩
  · simp [hb]
  · simp [hb]
  · simp [h0]
  · simp
  · simp [h0]
  · simp

/-- Settles O1, by running the decoder on the twelve words. -/
theorem sampleWordsDecode : Obligations.SampleWordsDecode := by
  unfold Obligations.SampleWordsDecode
  decide

/-- Settles O5: only "half" packs to the half tag, and neither SET_MODE nor the code of INIT looks at the tag otherwise. -/
theorem modeTagSelectsHalfOnly : Obligations.ModeTagSelectsHalfOnly := by
  refine ⟨fun t => rfl, fun s hf => ?_, fun s t tag hf h => ?_, fun a b c d => ⟨rfl, rfl, rfl, rfl, rfl⟩, rfl, fun chars => ?_⟩
  · refine ⟨_, (exec_eq_accepted .setMode s).trans (accepted_free _ (not_busy_of_idle hf)), ?_⟩
    rw [effect, whenConfigured_idle _ hf]
  · have hinit (u : State) (hu : u.fsm = .uncfg) : exec .init u = .next (configureLines u) := by
      rw [exec_eq_accepted, accepted_free _ (not_busy_of_uncfg hu)]
      exact congrArg _ (if_pos hu)
    rw [hinit s hf] at h
    cases h
    exact ⟨_, hinit { s with arg1 := tag } hf, configureLines_err_withTag s tag⟩
  · rw [modeOf_eq_half_iff, packText_eq_half_iff]

/-- Settles O51: the triples and the indices of R94 by their definitions. -/
theorem hostLinesAsTriples : Obligations.HostLinesAsTriples :=
  ⟨fun _ _ => rfl, fun _ => rfl, rfl, rfl, rfl, rfl, rfl, rfl, rfl, rfl, rfl, fun _ => rfl⟩

/-- Settles O52: the expansions of R95 by their definitions, each default left out or given. -/
theorem pseudoInstructionsExpand : Obligations.PseudoInstructionsExpand :=
  ⟨fun _ _ _ _ => rfl, fun _ _ _ _ _ _ => rfl, fun _ _ _ _ _ => rfl, fun _ => rfl, fun _ => rfl, fun _ => rfl, fun _ => rfl,
    fun _ => rfl, fun _ => rfl, fun _ => rfl, fun _ => HostCall.expand_wellFormed⟩

end Sys2Proof

/-! ## Configuration commands

SUPPORT. What each command makes of UNCFG and of IDLE (40_config.md R102, R111, R120, R130; 41_motion.md R152), INIT's line check in
terms of the four ids (R112), and that no accepted word reads ERR (R101). -/

namespace Sys2Proof.Machine

/-! ### Each command in UNCFG and in IDLE -/

theorem exec_free (i : Instr) {s : State} (hb : s.busy = false) : exec i s = .next (effect i s) :=
  (exec_eq_accepted i s).trans (accepted_free _ hb)

/-- Before a successful INIT the other commands report it (R102). -/
theorem exec_uncfg {i : Instr} {s : State} (hi : i ≠ .init) (hf : s.fsm = .uncfg) :
    exec i s = .next (raiseErr .notConfigured s) := by
  rw [exec_free i (not_busy_of_uncfg hf)]
  cases i with
  | init => exact absurd rfl hi
  | setMode | step d | rotate d | setDwell => rw [effect, whenConfigured_uncfg _ hf]

theorem exec_init_uncfg {s : State} (hf : s.fsm = .uncfg) : exec .init s = .next (configureLines s) := by
  rw [exec_free .init (not_busy_of_uncfg hf)]
  exact congrArg _ (if_pos hf)

theorem exec_init_idle {s : State} (hf : s.fsm = .idle) : exec .init s = .next (raiseErr .alreadyConfigured s) := by
  rw [exec_free .init (not_busy_of_idle hf)]
  exact congrArg _ (if_neg (by simp [hf]))

theorem exec_setMode_idle {s : State} (hf : s.fsm = .idle) :
    exec .setMode s = .next { s with mode := modeOf s.arg0, err := .ok } := by
  rw [exec_free .setMode (not_busy_of_idle hf), effect, whenConfigured_idle _ hf]

theorem exec_setDwell_idle {s : State} (hf : s.fsm = .idle) :
    exec .setDwell s = .next
      (if dwellValid s.arg0 then { s with dwell := s.arg0, err := .ok } else raiseErr .invalidArgument s) := by
  rw [exec_free .setDwell (not_busy_of_idle hf), effect, whenConfigured_idle _ hf]

theorem exec_rotate_idle {s : State} (d : Direction) (hf : s.fsm = .idle) :
    exec (.rotate d) s = .next (startMove (rotatePasses s.mode s.arg0) d s) := by
  rw [exec_free (.rotate d) (not_busy_of_idle hf), effect, whenConfigured_idle _ hf]

/-! ### The moves that STEP and ROTATE start -/

/-- A move latches the mode selected at its acceptance (R145). -/
theorem mvMode_of_move {s t : State} {d : Direction} (hf : s.fsm = .idle)
    (h : exec (.step d) s = .next t ∨ exec (.rotate d) s = .next t) (hb : t.busy = true) : t.mvMode = s.mode := by
  rcases move_cases h with ⟨e, rfl⟩ | ⟨n, -, rfl⟩
  · simp [State.busy, hf, Fsm.bits] at hb
  · rfl

/-- ROTATE's move counts the passes of the mode selected at its acceptance (R152). -/
theorem remain_of_rotate {s t : State} {d : Direction} (hf : s.fsm = .idle) (h : exec (.rotate d) s = .next t)
    (hb : t.busy = true) : (t.remain.toNat : Int) = rotatePasses s.mode s.arg0 := by
  rw [exec_rotate_idle d hf] at h
  cases h
  rcases Int.lt_or_le 0 (rotatePasses s.mode s.arg0) with hn | hn
  · rw [startMove_positive hn]
    exact ofInt_toNat hn (rotatePasses_le s.mode s.arg0)
  · rw [startMove_zero_length hn] at hb
    simp [State.busy, hf, Fsm.bits] at hb

theorem rotatePasses_modeOf (tag v : Word) :
    rotatePasses (modeOf tag) v = v.toInt.tdiv (if tag = Config.halfTag then 5760 else 11520) := by
  by_cases h : tag = Config.halfTag <;> simp [modeOf, h, rotatePasses]

/-! ### The checks of INIT (R112) and of a dwell (R91) -/

theorem dwellValid_eq_true {w : Word} : dwellValid w = true ↔ 0 < w.toInt := decide_eq_true_iff

theorem dwellValid_eq_false {w : Word} : dwellValid w = false ↔ w.toInt ≤ 0 := by
  rw [dwellValid, decide_eq_false_iff_not, Int.not_lt]

theorem lineIds_eq_map (w : Word) : lineIds w = (List.range 4).map (lineId w) := rfl

/-- INIT's line check passes when no two of the four ids are equal and each can be claimed. -/
theorem linesAccepted_eq_true {claimable : BitVec 256} {w : Word} :
    linesAccepted claimable w = true ↔
      (∀ j k, j < k → k < 4 → lineId w j ≠ lineId w k) ∧ ∀ k < 4, lineClaimable claimable (lineId w k) = true := by
  have distinct : (lineIds w).Nodup ↔ ∀ j k, j < k → k < 4 → lineId w j ≠ lineId w k := by
    rw [lineIds_eq_map, List.Nodup, List.pairwise_map, List.pairwise_iff_getElem]
    simp only [List.length_range, List.getElem_range]
    exact ⟨fun h j k hjk hk => h j k (hjk.trans hk) hk hjk, fun h j k _ hk hjk => h j k hjk hk⟩
  rw [linesAccepted, Bool.and_eq_true, decide_eq_true_iff, distinct]
  simp [lineIds_eq_map]

theorem configureLines_lines_refused {s : State} (hl : linesAccepted s.input.claimable s.arg0 = false) :
    configureLines s = raiseErr .configurationError s := if_pos hl

theorem configureLines_dwell_refused {s : State} (hl : linesAccepted s.input.claimable s.arg0 = true)
    (hd : dwellValid s.arg2 = false) : configureLines s = raiseErr .invalidArgument s := by
  simp [configureLines, hl, hd]

theorem configureLines_accepted {s : State} (hl : linesAccepted s.input.claimable s.arg0 = true)
    (hd : dwellValid s.arg2 = true) :
    configureLines s = { s with
      lines := s.arg0, mode := modeOf s.arg1, dwell := s.arg2, coil := 0#4, fsm := .idle, err := .ok } := by
  simp [configureLines, hl, hd]

/-! ### ERR at acceptance (R101) -/

theorem configureLines_raiseErr (e : ErrCode) (s : State) : configureLines (raiseErr e s) = configureLines s := by
  cases hl : linesAccepted s.input.claimable s.arg0 with
  | false => rw [configureLines_lines_refused hl, configureLines_lines_refused (s := raiseErr e s) hl]; rfl
  | true =>
    cases hd : dwellValid s.arg2 with
    | false => rw [configureLines_dwell_refused hl hd, configureLines_dwell_refused (s := raiseErr e s) hl hd]; rfl
    | true => rw [configureLines_accepted hl hd, configureLines_accepted (s := raiseErr e s) hl hd]; rfl

theorem startMove_raiseErr (n : Int) (d : Direction) (e : ErrCode) (s : State) :
    startMove n d (raiseErr e s) = startMove n d s := by
  unfold startMove
  split <;> rfl

theorem whenConfigured_raiseErr {f : State → State} {e : ErrCode} {s : State} (hf : f (raiseErr e s) = f s) :
    whenConfigured f (raiseErr e s) = whenConfigured f s := by
  simp only [whenConfigured, raiseErr_fsm, hf]
  split <;> rfl

/-- The effect of a command does not depend on the ERR before it. -/
theorem effect_raiseErr (i : Instr) (e : ErrCode) (s : State) : effect i (raiseErr e s) = effect i s := by
  cases i with
  | init =>
    simp only [effect, raiseErr_fsm, configureLines_raiseErr]
    split <;> rfl
  | setMode => exact whenConfigured_raiseErr (f := fun s => { s with mode := modeOf s.arg0, err := .ok }) rfl
  | step d =>
    exact whenConfigured_raiseErr (f := fun s => startMove (passCount s.arg0) d s)
      (startMove_raiseErr (passCount s.arg0) d e s)
  | rotate d =>
    exact whenConfigured_raiseErr (f := fun s => startMove (rotatePasses s.mode s.arg0) d s)
      (startMove_raiseErr (rotatePasses s.mode s.arg0) d e s)
  | setDwell =>
    refine whenConfigured_raiseErr (f := fun s =>
      if dwellValid s.arg0 then { s with dwell := s.arg0, err := .ok } else raiseErr .invalidArgument s) ?_
    rw [raiseErr_arg0]
    cases dwellValid s.arg0 <;> rfl

/-- Acceptance does not depend on the ERR before it. -/
theorem acceptWord_raiseErr {s : State} (w : Word) (e : ErrCode) (hb : s.busy = false) :
    acceptWord w (raiseErr e s) = acceptWord w s := by
  have hb' : (raiseErr e s).busy = false := hb
  rw [acceptWord_free w hb, acceptWord_free w hb']
  cases decode w with
  | command i => exact congrArg _ (effect_raiseErr i e s)
  | illegal r => rfl

/-- An accepted word writes ERR alone, or it succeeds. -/
theorem acceptWord_report_or_ok {w : Word} {s t : State} (hb : s.busy = false) (h : acceptWord w s = .next t) :
    (∃ e, t = { s with err := e }) ∨ t.err = .ok := by
  rw [acceptWord_free w hb] at h
  cases hd : decode w with
  | illegal r =>
    rw [hd] at h
    cases h
    exact .inl ⟨.illegalCommand, rfl⟩
  | command i =>
    rw [hd] at h
    cases h
    rcases effect_cases i s hb with ⟨e, he⟩ | ⟨-, -, -, he⟩ | ⟨-, -, he⟩ | ⟨-, -, -, he⟩ | ⟨-, d, n, -, -, -, he⟩
    · exact .inl ⟨e, he⟩
    all_goals exact .inr (congrArg State.err he)

end Sys2Proof.Machine

/-! ## The statements of 40_config.md

INIT, SET_MODE and SET_DWELL, the commands before INIT, the one report of an accepted word, and the frames of the commands. -/

namespace Sys2Proof

open Sys2Proof.Machine Sys2Proof.Safety

/-- Settles O6: the branches of the configuration, each chosen by the line check and the dwell check. -/
theorem initChecksThenConfigures : Obligations.InitChecksThenConfigures := by
  refine fun s => ⟨exec_init_idle, fun hf hbad => ?_, fun hf hclaim hdistinct => ?_⟩
  · have hl : linesAccepted s.input.claimable s.arg0 = false := by
      refine Bool.eq_false_iff.mpr fun hacc => ?_
      obtain ⟨hdistinct, hclaim⟩ := linesAccepted_eq_true.mp hacc
      rcases hbad with ⟨k, hk, hno⟩ | ⟨j, k, hjk, hk, heq⟩
      · exact Bool.eq_false_iff.mp hno (hclaim k hk)
      · exact hdistinct j k hjk hk heq
    rw [exec_init_uncfg hf, configureLines_lines_refused hl, raiseErr]
  · have hl := linesAccepted_eq_true.mpr ⟨hdistinct, hclaim⟩
    rw [exec_init_uncfg hf]
    refine ⟨fun hd => ?_, fun hd => ⟨_, rfl, fun _ => ?_, ?_⟩⟩
    · rw [configureLines_dwell_refused hl (dwellValid_eq_false.mpr hd), raiseErr]
    · rw [configureLines_accepted hl (dwellValid_eq_true.mpr hd)]
      rfl
    · exact configureLines_accepted hl (dwellValid_eq_true.mpr hd)

/-- Settles O15: an accepted word that does not succeed writes ERR alone, so it starts no move, and no accepted word reads ERR. -/
theorem acceptedCommandReportsOnce : Obligations.AcceptedCommandReportsOnce := by
  intro w s t hf h
  have hb := busy_eq_false.mpr hf
  refine ⟨fun hfail => ?_, fun hmove => ?_, fun e => (acceptWord_raiseErr w e hb).trans h⟩
  · rcases acceptWord_report_or_ok hb h with ⟨e, rfl⟩ | hok
    · rfl
    · exact absurd hok hfail
  · rcases acceptWord_report_or_ok hb h with ⟨e, rfl⟩ | hok
    · exact absurd (hb.symm.trans hmove) (by decide)
    · exact hok

/-- Settles O16, by the states that a presented command can leave. -/
theorem commandFrames : Obligations.CommandFrames := by
  refine fun s t d => ⟨fun h => ?_, fun h => ?_, fun h => ?_, fun h => ?_⟩
  · cases commandResult_of_exec h with
    | report | configure => rfl
  · cases commandResult_of_exec h with
    | report | selectMode => rfl
  · cases commandResult_of_exec h with
    | report | selectDwell => rfl
  · rcases move_cases h with ⟨e, rfl⟩ | ⟨n, -, rfl⟩ <;> rfl

/-- Settles O7: the state that SET_MODE leaves is the one the next move starts from, but for its operand. -/
theorem setModeSelectsTable : Obligations.SetModeSelectsTable := by
  refine fun s hf => ⟨exec_setMode_idle hf, fun t u d v ht hu hb => ?_, fun t u d v ht hu hb => ?_⟩
  · rw [exec_setMode_idle hf] at ht
    cases ht
    refine mvMode_of_move ?_ hu hb
    exact hf
  · rw [exec_setMode_idle hf] at ht
    cases ht
    refine (remain_of_rotate ?_ hu hb).trans (rotatePasses_modeOf s.arg0 v)
    exact hf

/-- Settles O8: the second SET_MODE writes the MODE and the ERR that the first one left. -/
theorem setModeIsIdempotent : Obligations.SetModeIsIdempotent := by
  intro s t hf h
  rw [exec_setMode_idle hf] at h
  cases h
  refine ⟨exec_setMode_idle hf, fun v hv => ?_, rfl, rfl, rfl, rfl⟩
  rw [← hv]
  exact exec_setMode_idle hf

/-- Settles O9: SET_DWELL by its dwell check, and no case of a cycle that can occur during a move writes DWELL. -/
theorem setDwellStoresPositiveDwell : Obligations.SetDwellStoresPositiveDwell := by
  refine fun s => ⟨fun hf hd => ?_, fun hf hd => ?_, fun _ => rfl, fun t hb hr h => ?_⟩
  · rw [exec_setDwell_idle hf, if_pos (dwellValid_eq_true.mpr hd)]
  · rw [exec_setDwell_idle hf, if_neg (Bool.eq_false_iff.mp (dwellValid_eq_false.mpr hd)), raiseErr]
  · cases runningCycle_of_step hr h with
    | configure _ hf => simp [not_busy_of_uncfg hf] at hb
    | selectDwell _ hf => simp [not_busy_of_idle hf] at hb
    | _ => simp

/-- Settles O10, by the refusal that SET_MODE, SET_DWELL, STEP and ROTATE share. -/
theorem commandsBeforeInitAreRefused : Obligations.CommandsBeforeInitAreRefused := by
  intro i s hi hf
  exact exec_uncfg hi hf

end Sys2Proof

/-! ## Invariants of the engine

SUPPORT. What `advance` makes of the index and the pass count (41_motion.md R164), and that no cycle breaks one of the invariants of
10_state.md R40 or of the model's own (log entry 9): one lemma per invariant, over the cases of a cycle. -/

namespace Sys2Proof.Machine

open Sys2Proof.Safety

theorem ne_uncfg_of_busy {s : State} (hb : s.busy = true) : s.fsm ≠ .uncfg := fun hf => by
  simp [not_busy_of_uncfg hf] at hb

theorem ne_idle_of_busy {s : State} (hb : s.busy = true) : s.fsm ≠ .idle := fun hf => by
  simp [not_busy_of_idle hf] at hb

/-! ### The end of a dwell -/

@[simp] theorem advanceMove_err (s t : State) : (advanceMove s t).err = t.err := by rw [advanceMove_frame]

@[simp] theorem advanceMove_mvDir (s t : State) : (advanceMove s t).mvDir = t.mvDir := by rw [advanceMove_frame]

@[simp] theorem advanceMove_mvMode (s t : State) : (advanceMove s t).mvMode = t.mvMode := by rw [advanceMove_frame]

@[simp] theorem advanceMove_tables (s t : State) : (advanceMove s t).tables = t.tables := by rw [advanceMove_frame]

/-- An index that is not the last of the latched table is counted up without overflow. -/
theorem idx_add_one {s : State} (h : s.idx.toNat < Config.tableLength s.mvMode - 1) :
    (s.idx + 1#3).toNat = s.idx.toNat + 1 := by
  have := tableLength_le s.mvMode
  rw [BitVec.toNat_add]
  exact Nat.mod_eq_of_lt (show s.idx.toNat + 1 < 8 by omega)

/-- A pass count above 1 is counted down without underflow. -/
theorem remain_sub_one {s : State} (h : 1 < s.remain.toNat) : (s.remain - 1#32).toNat = s.remain.toNat - 1 := by
  bv_omega

/-- The next index lies in the latched table, wherever the one before it lay. -/
theorem advanceMove_idx_lt (s t : State) : (advanceMove s t).idx.toNat < Config.tableLength s.mvMode := by
  rcases advanceMove_cases s t with ⟨hi, h⟩ | ⟨-, -, h⟩ | ⟨-, -, h⟩ <;> rw [h]
  · rw [idx_add_one hi]
    omega
  · exact tableLength_pos s.mvMode
  · exact tableLength_pos s.mvMode

theorem advanceMove_remain_le (s t : State) (ht : t.remain = s.remain) :
    (advanceMove s t).remain.toNat ≤ s.remain.toNat := by
  rcases advanceMove_cases s t with ⟨-, h⟩ | ⟨-, hr, h⟩ | ⟨-, -, h⟩ <;> rw [h]
  · exact Nat.le_of_eq (congrArg _ ht)
  · rw [remain_sub_one hr]
    omega
  · exact Nat.zero_le _

/-- A move that goes on after a dwell has passes left. -/
theorem advanceMove_remain_pos {s t : State} (ht : t.remain = s.remain) (hr : 1 ≤ s.remain.toNat)
    (hb : (advanceMove s t).busy = true) : 1 ≤ (advanceMove s t).remain.toNat := by
  rcases advanceMove_cases s t with ⟨-, h⟩ | ⟨-, hr', h⟩ | ⟨-, -, h⟩ <;> rw [h] at hb ⊢
  · simpa only [ht] using hr
  · rw [remain_sub_one hr']
    omega
  · exact absurd rfl (ne_idle_of_busy hb)

/-! ### The invariants of R40 -/

/-- A positive dwell operand is a DWELL that R40 allows (R91). -/
theorem toNat_bounds_of_toInt_pos {w : Word} (h : 0 < w.toInt) : 1 ≤ w.toNat ∧ w.toNat ≤ 2 ^ 31 - 1 := by
  rw [BitVec.toInt_eq_toNat_cond] at h
  split at h <;> omega

theorem ErrCode.bits_le (e : ErrCode) : e.bits.toNat ≤ 6 := by cases e <;> decide

/-- R40, first invariant. -/
abbrev MoveInTable (s : State) : Prop := s.busy = true → 1 ≤ s.remain.toNat ∧ s.idx.toNat < Config.tableLength s.mvMode

/-- R40, second invariant. -/
abbrev DwellInRange (s : State) : Prop := s.fsm ≠ .uncfg → 1 ≤ s.dwell.toNat ∧ s.dwell.toNat ≤ 2 ^ 31 - 1

/-- R40, third invariant. -/
abbrev UnconfiguredAsReset (s : State) : Prop :=
  s.fsm = .uncfg → s.coil = 0#4 ∧ s.lines = 0#32 ∧ s.mode = .full ∧ s.dwell = 1000#32

theorem RunningCycle.moveInTable {s t : State} (hc : RunningCycle s t) (h : MoveInTable s) : MoveInTable t := by
  intro hb
  cases hc with
  | rest | report | selectMode | selectDwell | hold => exact h hb
  | configure | abort => exact absurd rfl (ne_idle_of_busy hb)
  | start d n _ _ h0 hn =>
    refine ⟨?_, tableLength_pos s.mode⟩
    have := ofInt_toNat h0 hn
    simp only [State.consume_remain]
    omega
  | wrote p hf => exact h (busy_of_emit hf)
  | waited hf =>
    obtain ⟨hr, -⟩ := h (busy_of_dwell hf)
    refine ⟨advanceMove_remain_pos rfl hr hb, ?_⟩
    simpa using advanceMove_idx_lt s s

theorem RunningCycle.dwellInRange {s t : State} (hc : RunningCycle s t) (h : DwellInRange s) : DwellInRange t := by
  intro hf
  cases hc with
  | rest | report | selectMode | hold => exact h hf
  | configure _ _ hd | selectDwell _ _ hd => exact toNat_bounds_of_toInt_pos hd
  | start _ _ _ hs | wrote _ hs => exact h (by simp [hs])
  | waited hs => simpa using h (by simp [hs])
  | abort hb => exact h (ne_uncfg_of_busy hb)

theorem RunningCycle.unconfiguredAsReset {s t : State} (hc : RunningCycle s t) (h : UnconfiguredAsReset s) :
    UnconfiguredAsReset t := by
  intro hf
  cases hc with
  | rest | report | hold => exact h hf
  | selectMode _ hs | selectDwell _ hs => exact absurd (hs.symm.trans hf) (by decide)
  | configure | start | abort | wrote => cases hf
  | waited => rcases advanceMove_fsm s s with hs | hs <;> exact absurd (hs.symm.trans hf) (by decide)

/-- Every cycle keeps R40. -/
theorem statedInvariant_of_step {s t : State} (hs : StatedInvariant s) (h : step s = .next t) : StatedInvariant t := by
  obtain ⟨hmove, hdwell, huncfg, -⟩ := hs
  rcases step_reset_or_running h with ⟨-, rfl⟩ | ⟨-, hc⟩
  · exact ⟨fun hb => absurd rfl (ne_uncfg_of_busy hb), fun hf => absurd rfl hf, fun _ => ⟨rfl, rfl, rfl, rfl⟩,
      ErrCode.bits_le _⟩
  · exact ⟨hc.moveInTable hmove, hc.dwellInRange hdwell, hc.unconfiguredAsReset huncfg, ErrCode.bits_le _⟩

/-! ### The model's own invariants -/

/-- The index stays in the latched table, in a move and outside one. -/
theorem RunningCycle.idx_lt {s t : State} (hc : RunningCycle s t) (h : s.idx.toNat < Config.tableLength s.mvMode) :
    t.idx.toNat < Config.tableLength t.mvMode := by
  cases hc with
  | start => exact tableLength_pos s.mode
  | waited => simpa using advanceMove_idx_lt s s
  | _ => exact h

theorem RunningCycle.remain_le {s t : State} (hc : RunningCycle s t) (h : s.remain.toNat ≤ 2 ^ 31 - 1) :
    t.remain.toNat ≤ 2 ^ 31 - 1 := by
  cases hc with
  | start d n _ _ h0 hn =>
    have := ofInt_toNat h0 hn
    simp only [State.consume_remain]
    omega
  | waited => exact (advanceMove_remain_le s s rfl).trans h
  | _ => exact h

/-- ERR reads OK during a move (R242). -/
theorem RunningCycle.err_ok {s t : State} (hc : RunningCycle s t) (h : s.busy = true → s.err = .ok) (hb : t.busy = true) :
    t.err = .ok := by
  cases hc with
  | rest hs => exact absurd (hs.symm.trans hb) Bool.false_ne_true
  | report ha => exact absurd ((not_busy_of_accepts ha).symm.trans hb) Bool.false_ne_true
  | configure | selectMode | selectDwell | start => rfl
  | hold hs => exact h hs
  | abort => exact absurd rfl (ne_idle_of_busy hb)
  | wrote _ hf => exact h (busy_of_emit hf)
  | waited hf => simpa using h (busy_of_dwell hf)

/-- No cycle writes the pattern tables (R31). -/
theorem step_tables {s t : State} (h : step s = .next t) : t.tables = s.tables := by
  rcases step_reset_or_running h with ⟨-, rfl⟩ | ⟨-, hc⟩
  · rfl
  · cases hc with
    | waited => simp
    | _ => rfl

end Sys2Proof.Machine

/-! ## Cycles by FSM state

SUPPORT. The step of a cycle in each FSM state (41_motion.md R160-R166), when it stops (R142), the four things that a cycle of a move can
be, and what the platform's answers bring about (R162-R164, R204). -/

namespace Sys2Proof.Machine

open Sys2Proof.Safety

/-! ### The step in each FSM state -/

theorem not_accepts_of_busy {s : State} (hb : s.busy = true) : ¬ Accepts s := fun ha => by
  simp [not_busy_of_accepts ha] at hb

/-- Outside a move a cycle that accepts no word is the host's operand write or nothing (R166). -/
theorem step_rest {s : State} (hr : s.input.rst = false) (hb : s.busy = false) (ha : ¬ Accepts s) :
    step s = .next (hostOperands s s).consume := by
  rw [step_of_not_accepts hr ha, fsmProgress_free hb, chain_next]

theorem step_emit {s : State} {p : Pattern} (hr : s.input.rst = false) (hf : s.fsm = .emit)
    (hp : pat s.tables s.mvMode s.mvDir s.idx.toNat = some p) :
    step s = .next (hostOperands s (emitProgress s.input p s)).consume := by
  rw [step_of_not_accepts hr (not_accepts_of_busy (busy_of_emit hf)), fsmProgress_emit hf hp, chain_next]

theorem step_dwell {s : State} (hr : s.input.rst = false) (hf : s.fsm = .dwell) :
    step s = .next (hostOperands s (dwellProgress s.input s s)).consume := by
  rw [step_of_not_accepts hr (not_accepts_of_busy (busy_of_dwell hf)), fsmProgress_dwell hf, chain_next]

/-- In EMIT with an index outside the latched table the cycle stops (R142). -/
theorem step_outside_table {s : State} (hr : s.input.rst = false) (hf : s.fsm = .emit)
    (hk : Config.tableLength s.mvMode ≤ s.idx.toNat) : step s = .fault .indexOutsideTable := by
  have hstop : fsmProgress s.input s s = .fault .indexOutsideTable := by simp [fsmProgress, hf, pat_eq_none hk]
  rw [step_of_not_accepts hr (not_accepts_of_busy (busy_of_emit hf)), hstop, chain_fault]

/-- Every other cycle answers a next state. -/
theorem step_completes {s : State}
    (h : s.input.rst = false → s.fsm = .emit → s.idx.toNat < Config.tableLength s.mvMode) : ∃ t, step s = .next t := by
  cases hr : s.input.rst with
  | true => exact ⟨_, step_reset hr⟩
  | false =>
    cases hf : s.fsm with
    | emit =>
      obtain ⟨p, hp, -⟩ := pat_some (t := s.tables) (d := s.mvDir) (h hr hf)
      exact ⟨_, step_emit hr hf hp⟩
    | dwell => exact ⟨_, step_dwell hr hf⟩
    | uncfg | idle =>
      have hb : s.busy = false := busy_eq_false.mpr (by simp [hf])
      obtain ⟨u, hu⟩ := hostAccess_completes s.input s
      exact ⟨u.consume, by rw [step_running hr, hu, chain_next, fsmProgress_free hb, chain_next]⟩

/-! ### The progress of EMIT and of DWELL (R162, R163, R206) -/

theorem emitProgress_failed {inp : CycleIn} (he : inp.wrErr = true) (p : Pattern) (t : State) :
    emitProgress inp p t = abortMove t := by simp [emitProgress, he]

theorem emitProgress_acknowledged {inp : CycleIn} (he : inp.wrErr = false) (ha : inp.wrAck = true) (p : Pattern) (t : State) :
    emitProgress inp p t = { t with coil := p, fsm := .dwell } := by simp [emitProgress, he, ha]

theorem emitProgress_unanswered {inp : CycleIn} (he : inp.wrErr = false) (ha : inp.wrAck = false) (p : Pattern) (t : State) :
    emitProgress inp p t = t := by simp [emitProgress, he, ha]

theorem dwellProgress_failed {inp : CycleIn} (he : inp.dlyErr = true) (s t : State) :
    dwellProgress inp s t = abortMove t := by simp [dwellProgress, he]

theorem dwellProgress_ended {inp : CycleIn} (he : inp.dlyErr = false) (hd : inp.dlyDone = true) (s t : State) :
    dwellProgress inp s t = advanceMove s t := by simp [dwellProgress, he, hd]

theorem dwellProgress_unanswered {inp : CycleIn} (he : inp.dlyErr = false) (hd : inp.dlyDone = false) (s t : State) :
    dwellProgress inp s t = t := by simp [dwellProgress, he, hd]

/-! ### The cycles of a move -/

/-- Failures win over answers (R206). -/
theorem not_answered_of_failed {s : State} (h : failed s = true) : answered s = false := by
  unfold failed at h
  unfold answered
  cases hf : s.fsm <;> simp_all

/-- What a cycle outside reset can be during a move: the cases of `RunningCycle` that are left there, each with what the platform
answers. -/
inductive MoveCycle (s : State) : State → Prop where
  /-- the outstanding request is not answered -/
  | hold (ha : answered s = false) (hn : failed s = false) : MoveCycle s (hostOperands s s).consume
  /-- it fails (R204) -/
  | abort (ha : answered s = false) (hn : failed s = true) : MoveCycle s (hostOperands s (abortMove s)).consume
  /-- the coil write is acknowledged (R162) -/
  | wrote (p : Pattern) (hf : s.fsm = .emit) (hp : pat s.tables s.mvMode s.mvDir s.idx.toNat = some p)
      (ha : answered s = true) (hn : failed s = false) :
    MoveCycle s (hostOperands s { s with coil := p, fsm := .dwell }).consume
  /-- the delay ends (R164) -/
  | waited (hf : s.fsm = .dwell) (ha : answered s = true) (hn : failed s = false) :
    MoveCycle s (hostOperands s (advanceMove s s)).consume

theorem moveCycle_of_step {s t : State} (hb : s.busy = true) (hr : s.input.rst = false) (h : step s = .next t) :
    MoveCycle s t := by
  cases runningCycle_of_step hr h with
  | rest hs => exact absurd (hs.symm.trans hb) Bool.false_ne_true
  | report ha => exact absurd ha (not_accepts_of_busy hb)
  | configure _ hf => exact absurd hf (ne_uncfg_of_busy hb)
  | selectMode _ hf | selectDwell _ hf | start _ _ _ hf => exact absurd hf (ne_idle_of_busy hb)
  | hold _ ha hn => exact .hold ha hn
  | abort _ hn => exact .abort (not_answered_of_failed hn) hn
  | wrote p hf hp he ha => exact .wrote p hf hp (by simp [answered, hr, hf, he, ha]) (by simp [failed, hf, he])
  | waited hf he hd => exact .waited hf (by simp [answered, hr, hf, he, hd]) (by simp [failed, hf, he])

/-- What counts as an answer in a cycle without reset: one to the request that stands (R162, R163). -/
theorem answered_or_failed_iff {s : State} (hr : s.input.rst = false) :
    answered s = true ∨ failed s = true ↔
      (s.fsm = .emit ∧ (s.input.wrAck = true ∨ s.input.wrErr = true)) ∨
      (s.fsm = .dwell ∧ (s.input.dlyDone = true ∨ s.input.dlyErr = true)) := by
  cases hf : s.fsm with
  | uncfg | idle => simp [answered, failed, hf]
  | emit => cases he : s.input.wrErr <;> simp [answered, failed, hr, hf, he]
  | dwell => cases he : s.input.dlyErr <;> simp [answered, failed, hr, hf, he]

theorem busy_of_answered_or_failed {s : State} (hr : s.input.rst = false) (h : answered s = true ∨ failed s = true) :
    s.busy = true :=
  busy_eq_true.mpr (((answered_or_failed_iff hr).mp h).imp And.left And.left)

/-- An acknowledged write is followed by DWELL (R163). -/
theorem fsm_of_answered_write {s t : State} (hr : s.input.rst = false) (h : step s = .next t) (hf : s.fsm = .emit)
    (ha : answered s = true) : t.fsm = .dwell := by
  cases moveCycle_of_step (busy_of_emit hf) hr h with
  | hold ha' | abort ha' => exact absurd (ha'.symm.trans ha) Bool.false_ne_true
  | wrote => rfl
  | waited hf' => exact absurd (hf'.symm.trans hf) (by decide)

/-- An ended delay is followed by the next write or by the end of the move (R164). -/
theorem fsm_of_ended_delay {s t : State} (hr : s.input.rst = false) (h : step s = .next t) (hf : s.fsm = .dwell)
    (ha : answered s = true) : t.fsm = .emit ∨ (t.fsm = .idle ∧ t.remain = 0#32) := by
  cases moveCycle_of_step (busy_of_dwell hf) hr h with
  | hold ha' | abort ha' => exact absurd (ha'.symm.trans ha) Bool.false_ne_true
  | wrote _ hf' => exact absurd (hf'.symm.trans hf) (by decide)
  | waited =>
    rcases advanceMove_cases s s with ⟨-, hadv⟩ | ⟨-, -, hadv⟩ | ⟨-, -, hadv⟩ <;> rw [hadv]
    · exact .inl rfl
    · exact .inl rfl
    · exact .inr ⟨rfl, rfl⟩

/-- A failure ends the move and says so (R204). -/
theorem abort_of_failed {s t : State} (hr : s.input.rst = false) (h : step s = .next t) (hn : failed s = true) :
    t.fsm = .idle ∧ t.err = .platformIoError := by
  cases moveCycle_of_step (busy_of_answered_or_failed hr (.inr hn)) hr h with
  | abort => exact ⟨rfl, rfl⟩
  | hold _ hn' | wrote _ _ _ _ hn' | waited _ _ hn' => exact absurd (hn'.symm.trans hn) Bool.false_ne_true

/-! ### The requests (R161, R163, R166) -/

theorem outputs_wrReq {s : State} : (outputs s).wrReq = true ↔ s.fsm = .emit ∧ s.input.rst = false := by
  simp [outputs]

theorem outputs_dlyReq {s : State} : (outputs s).dlyReq = true ↔ s.fsm = .dwell ∧ s.input.rst = false := by
  simp [outputs]

theorem outputs_wrReq_eq_false {s : State} (hf : s.fsm ≠ .emit) : (outputs s).wrReq = false :=
  Bool.eq_false_iff.mpr fun h => hf (outputs_wrReq.mp h).1

theorem outputs_dlyReq_eq_false {s : State} (hf : s.fsm ≠ .dwell) : (outputs s).dlyReq = false :=
  Bool.eq_false_iff.mpr fun h => hf (outputs_dlyReq.mp h).1

/-- Outside a move nothing is requested (R166). -/
theorem outputs_no_request {s : State} (hb : s.busy = false) : (outputs s).wrReq = false ∧ (outputs s).dlyReq = false := by
  rcases busy_eq_false.mp hb with hf | hf <;>
    exact ⟨outputs_wrReq_eq_false (by simp [hf]), outputs_dlyReq_eq_false (by simp [hf])⟩

/-! ### A command and the platform's answers (R166) -/

@[simp] theorem State.withInput_consume (s : State) (inp : CycleIn) : (s.withInput inp).consume = s.consume := rfl

/-- Of a cycle's inputs the configuration reads LINE_CLAIMABLE alone. -/
theorem configureLines_withInput {s : State} {inp : CycleIn} (hc : inp.claimable = s.input.claimable) :
    configureLines (s.withInput inp) = (configureLines s).withInput inp := by
  have hlines : linesAccepted (s.withInput inp).input.claimable (s.withInput inp).arg0 =
      linesAccepted s.input.claimable s.arg0 := by
    rw [State.withInput_input, State.withInput_arg0, hc]
  cases hl : linesAccepted s.input.claimable s.arg0 with
  | false => rw [configureLines_lines_refused hl, configureLines_lines_refused (hlines.trans hl)]; rfl
  | true =>
    cases hd : dwellValid s.arg2 with
    | false =>
      rw [configureLines_dwell_refused hl hd, configureLines_dwell_refused (s := s.withInput inp) (hlines.trans hl) hd]
      rfl
    | true => rw [configureLines_accepted hl hd, configureLines_accepted (s := s.withInput inp) (hlines.trans hl) hd]; rfl

theorem startMove_withInput (n : Int) (d : Direction) (s : State) (inp : CycleIn) :
    startMove n d (s.withInput inp) = (startMove n d s).withInput inp := by
  unfold startMove
  split <;> rfl

theorem whenConfigured_withInput {f : State → State} {s : State} {inp : CycleIn}
    (hf : f (s.withInput inp) = (f s).withInput inp) :
    whenConfigured f (s.withInput inp) = (whenConfigured f s).withInput inp := by
  simp only [whenConfigured, State.withInput_fsm, hf]
  split <;> rfl

/-- Of a cycle's inputs a command reads LINE_CLAIMABLE alone. -/
theorem effect_withInput (i : Instr) {s : State} {inp : CycleIn} (hc : inp.claimable = s.input.claimable) :
    effect i (s.withInput inp) = (effect i s).withInput inp := by
  cases i with
  | init =>
    simp only [effect, State.withInput_fsm, configureLines_withInput hc]
    split <;> rfl
  | setMode => exact whenConfigured_withInput (f := fun s => { s with mode := modeOf s.arg0, err := .ok }) rfl
  | step d =>
    exact whenConfigured_withInput (f := fun s => startMove (passCount s.arg0) d s) (startMove_withInput _ d s inp)
  | rotate d =>
    exact whenConfigured_withInput (f := fun s => startMove (rotatePasses s.mode s.arg0) d s) (startMove_withInput _ d s inp)
  | setDwell =>
    refine whenConfigured_withInput (f := fun s =>
      if dwellValid s.arg0 then { s with dwell := s.arg0, err := .ok } else raiseErr .invalidArgument s) ?_
    rw [State.withInput_arg0]
    cases dwellValid s.arg0 <;> rfl

/-- The same inputs with other answers of the platform. -/
def CycleIn.withAnswers (inp : CycleIn) (wrAck wrErr dlyDone dlyErr : Bool) : CycleIn :=
  { inp with wrAck := wrAck, wrErr := wrErr, dlyDone := dlyDone, dlyErr := dlyErr }

/-- Outside a move the step does not depend on the platform's answers (R166). -/
theorem step_withAnswers {s : State} (hb : s.busy = false) (a b c d : Bool) :
    step (s.withInput (s.input.withAnswers a b c d)) = step s := by
  cases hr : s.input.rst with
  | true =>
    rw [step_reset hr, step_reset (s := s.withInput (s.input.withAnswers a b c d)) hr]
    rfl
  | false =>
    have hr' : (s.withInput (s.input.withAnswers a b c d)).input.rst = false := hr
    by_cases ha : Accepts s
    · have ha' : Accepts (s.withInput (s.input.withAnswers a b c d)) := ha
      cases hd : decode s.input.busWdata with
      | command i =>
        have hclaimable : (s.input.withAnswers a b c d).claimable = s.input.claimable := rfl
        rw [step_accepts_command hr ha hd, step_accepts_command hr' ha' hd, effect_withInput i hclaimable,
          State.withInput_consume]
      | illegal r =>
        rw [step_accepts_illegal hr ha hd, step_accepts_illegal hr' ha' hd]
        rfl
    · rw [step_rest hr hb ha, step_rest hr' hb ha]
      rfl

/-! ### STEP in IDLE (R145), and the cycle function of R167 -/

theorem exec_step_idle {s : State} (d : Direction) (hf : s.fsm = .idle) :
    exec (.step d) s = .next (startMove s.arg0.toInt d s) := by
  rw [exec_free (.step d) (not_busy_of_idle hf), effect, whenConfigured_idle _ hf, passCount]

theorem cycleFunction_snd (s : State) : (cycleFunction s).2 = cycleOutputs s := by
  unfold cycleFunction
  split <;> rfl

theorem cycleFunction_fst (s : State) : (cycleFunction s).1 = step s := by
  cases hr : s.input.rst with
  | true => simp [cycleFunction, hr, step_reset hr]
  | false => simp [cycleFunction, hr, step_running hr, cycleAccess_eq_hostAccess hr]

end Sys2Proof.Machine

/-! ## Whole moves

SUPPORT. A property that every cycle of a run keeps, the events that a move still owes (41_motion.md R146, R168), of which each cycle
delivers its own and whose number is the number of answers left (R169), where a move ends, and what an unanswered request leaves
unchanged. -/

namespace Sys2Proof.Machine

open Sys2Proof.Safety

/-! ### Runs -/

theorem runCycles_succ {k : Nat} {s t : State} (h : step s = .next t) : runCycles (k + 1) s = runCycles k t := by
  rw [runCycles, h, chain_next]

/-- A property of the first state that every cycle of the run keeps holds of the last. -/
theorem runCycles_keeps {P : State → Prop} {k : Nat} {s t : State} (hs : P s) (hrun : runCycles k s = .next t)
    (hkeep : ∀ j < k, ∀ u v, runCycles j s = .next u → P u → step u = .next v → P v) : P t := by
  induction k generalizing s with
  | zero =>
    cases hrun
    exact hs
  | succ k ih =>
    obtain ⟨s', hstep, hrun⟩ := chain_eq_next hrun
    refine ih (hkeep 0 k.succ_pos s s' rfl hs hstep) hrun fun j hj u v hu => ?_
    exact hkeep (j + 1) (Nat.succ_lt_succ hj) u v ((runCycles_succ hstep).trans hu)

/-! ### The events that a move still owes -/

/-- The two events of position `j` of the move, counted over all its passes: the write of its pattern, and the dwell (R146). -/
def patternEvents (s : State) (j : Nat) : List MoveEvent :=
  (pat s.tables s.mvMode s.mvDir (j % Config.tableLength s.mvMode)).toList.map MoveEvent.wrote ++ [MoveEvent.dwelt s.dwell]

/-- The events of the positions from `i` to the end of `passes` passes. -/
def eventsFrom (s : State) (i passes : Nat) : List MoveEvent :=
  (List.range' i (passes * Config.tableLength s.mvMode - i)).flatMap (patternEvents s)

/-- The events that the move of `s` still owes. -/
def eventsLeft (s : State) : List MoveEvent :=
  match s.fsm with
  | .uncfg => []
  | .idle => []
  | .emit => eventsFrom s s.idx.toNat s.remain.toNat
  | .dwell => .dwelt s.dwell :: eventsFrom s (s.idx.toNat + 1) s.remain.toNat

theorem eventsLeft_free {s : State} (hb : s.busy = false) : eventsLeft s = [] := by
  rcases busy_eq_false.mp hb with hf | hf <;> simp [eventsLeft, hf]

theorem eventsLeft_emit {s : State} (hf : s.fsm = .emit) : eventsLeft s = eventsFrom s s.idx.toNat s.remain.toNat := by
  simp [eventsLeft, hf]

theorem eventsLeft_dwell {s : State} (hf : s.fsm = .dwell) :
    eventsLeft s = .dwelt s.dwell :: eventsFrom s (s.idx.toNat + 1) s.remain.toNat := by
  simp [eventsLeft, hf]

theorem eventsFrom_cons {s : State} {i passes : Nat} (h : i < passes * Config.tableLength s.mvMode) :
    eventsFrom s i passes = patternEvents s i ++ eventsFrom s (i + 1) passes := by
  obtain ⟨n, hn⟩ := Nat.exists_eq_add_of_lt h
  rw [eventsFrom, eventsFrom, show passes * Config.tableLength s.mvMode - i = n + 1 by omega,
    show passes * Config.tableLength s.mvMode - (i + 1) = n by omega, List.range'_succ, List.flatMap_cons]

/-- The end of a pass is the beginning of the next. -/
theorem eventsFrom_nextPass (s : State) (passes : Nat) :
    eventsFrom s (Config.tableLength s.mvMode) (passes + 1) = eventsFrom s 0 passes := by
  have hshift : List.range' (Config.tableLength s.mvMode) (passes * Config.tableLength s.mvMode) =
      (List.range' 0 (passes * Config.tableLength s.mvMode)).map (Config.tableLength s.mvMode + ·) := by
    rw [List.map_add_range', Nat.add_zero]
  have hperiod (j : Nat) : patternEvents s (Config.tableLength s.mvMode + j) = patternEvents s j := by
    rw [patternEvents, Nat.add_mod_left, patternEvents]
  simp only [eventsFrom, Nat.succ_mul, Nat.add_sub_cancel, Nat.sub_zero, hshift, List.flatMap_map, hperiod]

theorem patternEvents_eq {s : State} {p : Pattern} (hi : s.idx.toNat < Config.tableLength s.mvMode)
    (hp : pat s.tables s.mvMode s.mvDir s.idx.toNat = some p) :
    patternEvents s s.idx.toNat = [.wrote p, .dwelt s.dwell] := by
  simp [patternEvents, Nat.mod_eq_of_lt hi, hp]

theorem patternEvents_length (s : State) (j : Nat) : (patternEvents s j).length = 2 := by
  obtain ⟨p, hp, -⟩ := pat_some (t := s.tables) (d := s.mvDir) (Nat.mod_lt j (tableLength_pos s.mvMode))
  simp [patternEvents, hp]

theorem eventsFrom_length (s : State) (i passes : Nat) :
    (eventsFrom s i passes).length = (passes * Config.tableLength s.mvMode - i) * 2 := by
  simp [eventsFrom, List.length_flatMap, patternEvents_length]

theorem answersLeft_free {s : State} (hb : s.busy = false) : answersLeft s = 0 := by
  rcases busy_eq_false.mp hb with hf | hf <;> simp [answersLeft, hf]

/-- The number of answers that a move still needs is the number of events that it still owes (R169). -/
theorem answersLeft_eq_length {s : State} (h : MoveInTable s) : answersLeft s = (eventsLeft s).length := by
  cases hb : s.busy with
  | false => rw [answersLeft_free hb, eventsLeft_free hb, List.length_nil]
  | true =>
    obtain ⟨hrem, hi⟩ := h hb
    obtain ⟨r, hr⟩ := Nat.exists_eq_add_of_le' hrem
    have hpasses : 2 * Config.tableLength s.mvMode * r = 2 * (r * Config.tableLength s.mvMode) := by ring
    have htotal : s.remain.toNat * Config.tableLength s.mvMode =
        r * Config.tableLength s.mvMode + Config.tableLength s.mvMode := by rw [hr, Nat.succ_mul]
    rcases busy_eq_true.mp hb with hf | hf
    · rw [eventsLeft_emit hf, eventsFrom_length, htotal]
      simp only [answersLeft, hf, hr, Nat.add_sub_cancel, hpasses]
      omega
    · rw [eventsLeft_dwell hf, List.length_cons, eventsFrom_length, htotal]
      simp only [answersLeft, hf, hr, Nat.add_sub_cancel, hpasses]
      omega

/-! ### The events of one cycle -/

theorem cycleEvents_emit {s : State} (hr : s.input.rst = false) (hf : s.fsm = .emit) (ha : answered s = true) :
    cycleEvents s = (pat s.tables s.mvMode s.mvDir s.idx.toNat).toList.map MoveEvent.wrote := by
  simp [cycleEvents, ha, outputs, hf, hr]

theorem cycleEvents_dwell {s : State} (hr : s.input.rst = false) (hf : s.fsm = .dwell) (ha : answered s = true) :
    cycleEvents s = [.dwelt s.dwell] := by
  simp [cycleEvents, ha, outputs, hf, hr]

/-- The events after a dwell are those of the position that `advance` goes to. -/
theorem eventsLeft_advanceMove {s : State} (hi : s.idx.toNat < Config.tableLength s.mvMode) (hr : 1 ≤ s.remain.toNat) :
    eventsLeft (advanceMove s s) = eventsFrom s (s.idx.toNat + 1) s.remain.toNat := by
  have lastIndex (h : ¬ s.idx.toNat < Config.tableLength s.mvMode - 1) : s.idx.toNat + 1 = Config.tableLength s.mvMode := by
    omega
  rcases advanceMove_cases s s with ⟨hi, h⟩ | ⟨hi, hr', h⟩ | ⟨hi, hr', h⟩ <;> rw [h]
  · rw [eventsLeft_emit rfl, idx_add_one hi]
    rfl
  · obtain ⟨r, hr⟩ := Nat.exists_eq_add_of_le' hr
    rw [eventsLeft_emit rfl, remain_sub_one hr', lastIndex hi, hr, eventsFrom_nextPass]
    rfl
  · rw [eventsLeft_free (not_busy_of_idle rfl), lastIndex hi, show s.remain.toNat = 0 + 1 by omega, eventsFrom_nextPass]
    simp [eventsFrom]

/-- A cycle of a move that does not fail delivers its own events and leaves the others. -/
theorem eventsLeft_of_step {s t : State} (hs : MoveInTable s) (hb : s.busy = true) (hr : s.input.rst = false)
    (hn : failed s = false) (h : step s = .next t) : eventsLeft s = cycleEvents s ++ eventsLeft t := by
  obtain ⟨hrem, hi⟩ := hs hb
  cases moveCycle_of_step hb hr h with
  | hold ha =>
    have hevents : cycleEvents s = [] := by simp [cycleEvents, ha]
    rw [hevents]
    rfl
  | abort _ hn' => exact absurd (hn.symm.trans hn') Bool.false_ne_true
  | wrote p hf hp ha =>
    have hlt : s.idx.toNat < s.remain.toNat * Config.tableLength s.mvMode :=
      hi.trans_le (Nat.le_mul_of_pos_left _ hrem)
    rw [cycleEvents_emit hr hf ha, eventsLeft_emit hf, eventsFrom_cons hlt, patternEvents_eq hi hp, hp]
    rfl
  | waited hf ha =>
    have hafter : eventsLeft (hostOperands s (advanceMove s s)).consume = eventsLeft (advanceMove s s) := rfl
    rw [cycleEvents_dwell hr hf ha, eventsLeft_dwell hf, hafter, eventsLeft_advanceMove hi hrem]
    rfl

theorem cycleEvents_length {s : State} (hs : MoveInTable s) (hr : s.input.rst = false) :
    (cycleEvents s).length = if answered s = true then 1 else 0 := by
  split_ifs with ha
  · rcases busy_eq_true.mp (busy_of_answered_or_failed hr (.inl ha)) with hf | hf
    · obtain ⟨p, hp, -⟩ := pat_some (t := s.tables) (d := s.mvDir) (hs (busy_of_emit hf)).2
      simp [cycleEvents_emit hr hf ha, hp]
    · simp [cycleEvents_dwell hr hf ha]
  · simp [cycleEvents, ha]

/-- A move needs answers as long as it goes on. -/
theorem busy_iff_answersLeft {s : State} (h : MoveInTable s) : s.busy = true ↔ answersLeft s ≠ 0 := by
  constructor
  · intro hb
    obtain ⟨-, hi⟩ := h hb
    rcases busy_eq_true.mp hb with hf | hf <;> simp only [answersLeft, hf] <;> omega
  · intro hne
    by_contra hb
    exact hne (answersLeft_free (Bool.eq_false_iff.mpr hb))

/-- A move of `n` passes begins with `2 * n * L` answers to come (R169). -/
theorem answersLeft_startMove {n : Int} (h0 : 0 < n) (hn : n ≤ 2 ^ 31 - 1) (d : Direction) (s : State) :
    (answersLeft (startMove n d s) : Int) = 2 * n * Config.tableLength s.mode := by
  have hremain := ofInt_toNat h0 hn
  rw [startMove_positive h0]
  cases hm : s.mode <;> simp [answersLeft, Config.tableLength] <;> omega

/-! ### Where a move ends -/

/-- What holds of `t` in the cycles of the move of `s` and in the state after them: the latched fields are those of `s`, COIL shows the
written pattern, and a move that ended without an abort ended at the last pattern of its last pass (R165). -/
structure MoveOf (s t : State) : Prop where
  tables : t.tables = s.tables
  mvMode : t.mvMode = s.mvMode
  mvDir : t.mvDir = s.mvDir
  inTable : MoveInTable t
  coilWritten : t.fsm = .dwell → some t.coil = pat s.tables s.mvMode s.mvDir t.idx.toNat
  ended : t.busy = false → t.err = .ok →
    t.fsm = .idle ∧ t.idx = 0#3 ∧ t.remain = 0#32 ∧
      some t.coil = pat s.tables s.mvMode s.mvDir (Config.tableLength s.mvMode - 1)

theorem MoveOf.of_step {s u v : State} (hu : MoveOf s u) (hb : u.busy = true) (hr : u.input.rst = false)
    (h : step u = .next v) : MoveOf s v := by
  obtain ⟨htables, hmode, hdir, htable, hcoil, hended⟩ := hu
  have htable' := (runningCycle_of_step hr h).moveInTable htable
  cases moveCycle_of_step hb hr h with
  | hold => exact ⟨htables, hmode, hdir, htable', hcoil, hended⟩
  | abort => exact ⟨htables, hmode, hdir, htable', fun hf => (nomatch hf), fun _ he => (nomatch he)⟩
  | wrote p hf hp =>
    rw [htables, hmode, hdir] at hp
    exact ⟨htables, hmode, hdir, htable', fun _ => hp.symm,
      fun hfree => absurd (busy_of_dwell rfl) (Bool.eq_false_iff.mp hfree)⟩
  | waited hf =>
    rcases advanceMove_cases u u with ⟨-, hadv⟩ | ⟨-, -, hadv⟩ | ⟨hi, -, hadv⟩ <;> rw [hadv] at htable' ⊢
    · exact ⟨htables, hmode, hdir, htable', fun hf' => (nomatch hf'),
        fun hfree => absurd (busy_of_emit rfl) (Bool.eq_false_iff.mp hfree)⟩
    · exact ⟨htables, hmode, hdir, htable', fun hf' => (nomatch hf'),
        fun hfree => absurd (busy_of_emit rfl) (Bool.eq_false_iff.mp hfree)⟩
    · have hlast : u.idx.toNat = Config.tableLength s.mvMode - 1 := by
        obtain ⟨-, hlt⟩ := htable (busy_of_dwell hf)
        rw [hmode] at hi hlt
        omega
      refine ⟨htables, hmode, hdir, htable', fun hf' => (nomatch hf'), fun _ _ => ⟨rfl, rfl, rfl, ?_⟩⟩
      rw [← hlast]
      exact hcoil hf

/-- A move that runs to its end without an abort or a reset delivers all the events that it owes. -/
theorem events_of_move {k : Nat} {s t : State} (hs : MoveInTable s) (hrun : runCycles k s = .next t)
    (hmove : ∀ j < k, ∀ u, runCycles j s = .next u → u.busy = true ∧ u.input.rst = false) (hb : t.busy = false)
    (he : t.err = .ok) : events k s = eventsLeft s := by
  induction k generalizing s with
  | zero =>
    cases hrun
    rw [events, eventsLeft_free hb]
  | succ k ih =>
    obtain ⟨s', hstep, hrun⟩ := chain_eq_next hrun
    obtain ⟨hbusy, hr⟩ := hmove 0 k.succ_pos s rfl
    have hmove' (j : Nat) (hj : j < k) (u : State) (hu : runCycles j s' = .next u) : u.busy = true ∧ u.input.rst = false :=
      hmove (j + 1) (Nat.succ_lt_succ hj) u ((runCycles_succ hstep).trans hu)
    have hn : failed s = false := by
      refine Bool.eq_false_iff.mpr fun hn => ?_
      obtain ⟨hidle, herr⟩ := abort_of_failed hr hstep hn
      cases k with
      | zero =>
        cases hrun
        exact absurd (herr.symm.trans he) (by decide)
      | succ k => exact ne_idle_of_busy (hmove' 0 k.succ_pos s' rfl).1 hidle
    have htable := (runningCycle_of_step hr hstep).moveInTable hs
    rw [eventsLeft_of_step hs hbusy hr hn hstep, events, hstep, ← ih htable hrun hmove']

/-! ### An unanswered request -/

/-- `t` is `s` but for the operand registers and the environment. -/
def SameEngine (s t : State) : Prop :=
  ∃ x y z inputs cycle, t = { s with arg0 := x, arg1 := y, arg2 := z, inputs := inputs, cycle := cycle }

theorem SameEngine.refl (s : State) : SameEngine s s := ⟨_, _, _, _, _, rfl⟩

/-- A cycle of a move without any answer keeps the engine as it is (R162, R163). -/
theorem SameEngine.of_step {s u v : State} (hu : SameEngine s u) (hb : u.busy = true) (hr : u.input.rst = false)
    (hquiet : u.input.wrAck = false ∧ u.input.wrErr = false ∧ u.input.dlyDone = false ∧ u.input.dlyErr = false)
    (h : step u = .next v) : SameEngine s v := by
  have hnone : ¬ (answered u = true ∨ failed u = true) := by
    obtain ⟨hack, herr, hdone, hderr⟩ := hquiet
    simp [answered_or_failed_iff hr, hack, herr, hdone, hderr]
  obtain ⟨x, y, z, inputs, cycle, rfl⟩ := hu
  cases moveCycle_of_step hb hr h with
  | hold => exact ⟨_, _, _, _, _, rfl⟩
  | abort _ hn => exact absurd (.inr hn) hnone
  | wrote _ _ _ ha | waited _ ha => exact absurd (.inl ha) hnone

end Sys2Proof.Machine

/-! ## The statements of 41_motion.md

The engine's invariant, the acceptance of STEP and ROTATE, the indexer, the cycles of each FSM state, and whole moves. -/

namespace Sys2Proof

open Sys2Proof.Machine Sys2Proof.Safety

/-- Settles O39, invariant by invariant: R40, then each of the model's own four. -/
theorem engineInvariantIsKept : Obligations.EngineInvariantIsKept := by
  intro s t hs h
  obtain ⟨hstated, hidx, hremain, herr, htables⟩ := hs
  have htables' : t.tables.legal = true := by rw [step_tables h, htables]
  refine ⟨statedInvariant_of_step hstated h, ?_⟩
  rcases step_reset_or_running h with ⟨-, rfl⟩ | ⟨-, hc⟩
  · exact ⟨tableLength_pos .full, Nat.zero_le _, fun _ => rfl, htables'⟩
  · exact ⟨hc.idx_lt hidx, hc.remain_le hremain, hc.err_ok herr, htables'⟩

/-- Settles O12: ROTATE starts the move of its step count, which fits REMAIN. -/
theorem rotateStartsMove : Obligations.RotateStartsMove := by
  intro d s n hf hn
  replace hn : n = rotatePasses s.mode s.arg0 := hn
  subst hn
  rw [exec_rotate_idle d hf]
  refine ⟨fun hpos => ?_, fun hneg => by rw [startMove_zero_length hneg]⟩
  rw [startMove_positive hpos]
  exact ⟨_, rfl, ofInt_toNat hpos (rotatePasses_le s.mode s.arg0), rfl⟩

/-- Settles O13: the source's divisor 360 * 65536 is the model's times the steps of a revolution, which cancel. -/
theorem rotateCountIsExact : Obligations.RotateCountIsExact := by
  intro m w
  have hlow := le_toInt w
  have hhigh := toInt_le w
  obtain ⟨hmin, hmax⟩ := rotatePasses_bounds m w
  have hspr : Config.stepsPerRevolution m = if Config.tableLength m = 4 then 2048 else 4096 := by cases m <;> rfl
  have hcount : rotatePasses m w = (w.toInt * Config.stepsPerRevolution m).tdiv (360 * 65536) := by
    cases m with
    | full => exact (Int.mul_tdiv_mul_of_pos_left w.toInt 11520 (show 0 < 2048 by decide)).symm
    | half => exact (Int.mul_tdiv_mul_of_pos_left w.toInt 5760 (show 0 < 4096 by decide)).symm
  have hproduct : -2 ^ 44 ≤ w.toInt * Config.stepsPerRevolution m ∧ w.toInt * Config.stepsPerRevolution m < 2 ^ 44 := by
    cases m <;> simp only [Config.stepsPerRevolution] <;> omega
  exact ⟨hspr, hcount, rfl, hproduct.1, hproduct.2, hmin, hmax⟩

/-- Settles O27: forward the traversal order is the table, and element `k` in reverse is element `L - 1 - k` of the table. -/
theorem indexerFollowsTraversalOrder : Obligations.IndexerFollowsTraversalOrder := by
  refine fun t m d k => ⟨fun hk => ?_, pat_eq_none⟩
  obtain ⟨p, hp, -⟩ := pat_some (t := t) (d := d) hk
  have hmirror : Config.tableLength m - 1 - k < Config.tableLength m := by omega
  refine ⟨by rw [hp, Option.isSome_some], pat_eq_order hk, pat_eq_order hk, ?_⟩
  simp [pat, hk, hmirror]

/-- Settles O30, by the three answers that a coil write can get. -/
theorem emitCycle : Obligations.EmitCycle := by
  intro s p hf hr hp
  refine ⟨_, step_emit hr hf hp, ?_⟩
  cases he : s.input.wrErr with
  | true => simp [emitProgress_failed he]
  | false =>
    cases ha : s.input.wrAck with
    | true => simp [emitProgress_acknowledged he ha]
    | false => simp [emitProgress_unanswered he ha, hf]

/-- Settles O31, by the three answers that a delay can get and the three branches of `advance`. -/
theorem dwellCycle : Obligations.DwellCycle := by
  refine ⟨fun s t hf hr he ha h => ?_, fun s hf hr => ⟨outputs_dlyReq.mpr ⟨hf, hr⟩, rfl,
    outputs_wrReq_eq_false (by simp [hf]), _, step_dwell hr hf, ?_⟩⟩
  · exact fsm_of_answered_write hr h hf (by simp [answered, hr, hf, he, ha])
  · cases he : s.input.dlyErr with
    | true => simp [dwellProgress_failed he]
    | false =>
      cases hd : s.input.dlyDone with
      | false => simp [dwellProgress_unanswered he hd, hf]
      | true =>
        rw [dwellProgress_ended he hd]
        rcases advanceMove_cases s s with ⟨hi, h⟩ | ⟨hi, hrem, h⟩ | ⟨hi, hrem, h⟩ <;> rw [h]
        · simp [hi, idx_add_one hi]
        · simp [hi, hrem, remain_sub_one hrem, Nat.not_le.mpr hrem]
        · simp [hi, hrem]

/-- Settles O33: outside a move the FSM makes no progress, and a command reads no answer of the platform. -/
theorem answersIgnoredOutsideMove : Obligations.AnswersIgnoredOutsideMove := by
  intro s inp rest a b c d hf
  have hb := busy_eq_false.mpr hf
  obtain ⟨hw, hd⟩ := outputs_no_request hb
  exact ⟨hw, hd, (step_withAnswers (s := { s with inputs := inp :: rest }) hb a b c d).symm⟩

/-- Settles O34: each request stands in one state of the FSM, and every answer and every failure leaves that state. -/
theorem requestsAlternate : Obligations.RequestsAlternate := by
  intro s t hr h
  refine ⟨fun ⟨hw, hd⟩ => ?_, fun hans => ⟨fun hw => ?_, fun hd => ?_⟩, fun ha hw hr' => ?_, fun ha hd hr' => ?_,
    fun hn => ?_, fun hlegal => ?_⟩
  · exact absurd ((outputs_wrReq.mp hw).1.symm.trans (outputs_dlyReq.mp hd).1) (by decide)
  · refine outputs_wrReq_eq_false ?_
    rcases hans with ha | hn
    · simp [fsm_of_answered_write hr h (outputs_wrReq.mp hw).1 ha]
    · simp [(abort_of_failed hr h hn).1]
  · refine outputs_dlyReq_eq_false ?_
    rcases hans with ha | hn
    · rcases fsm_of_ended_delay hr h (outputs_dlyReq.mp hd).1 ha with hf | ⟨hf, -⟩ <;> simp [hf]
    · simp [(abort_of_failed hr h hn).1]
  · exact outputs_dlyReq.mpr ⟨fsm_of_answered_write hr h (outputs_wrReq.mp hw).1 ha, hr'⟩
  · exact (fsm_of_ended_delay hr h (outputs_dlyReq.mp hd).1 ha).imp (fun hf => outputs_wrReq.mpr ⟨hf, hr'⟩) id
  · obtain ⟨hf, -⟩ := abort_of_failed hr h hn
    exact ⟨hf, outputs_no_request (not_busy_of_idle hf)⟩
  · obtain ⟨hwrite, hdelay, -⟩ := hlegal
    rw [answered_or_failed_iff hr]
    constructor
    · rintro (h | h | h | h)
      · exact .inl ⟨(outputs_wrReq.mp (hwrite (.inl h))).1, .inl h⟩
      · exact .inl ⟨(outputs_wrReq.mp (hwrite (.inr h))).1, .inr h⟩
      · exact .inr ⟨(outputs_dlyReq.mp (hdelay (.inl h))).1, .inl h⟩
      · exact .inr ⟨(outputs_dlyReq.mp (hdelay (.inr h))).1, .inr h⟩
    · rintro (⟨-, h | h⟩ | ⟨-, h | h⟩)
      · exact .inl h
      · exact .inr (.inl h)
      · exact .inr (.inr (.inl h))
      · exact .inr (.inr (.inr h))

/-- Settles O41: in EMIT outside the latched table the cycle stops, and every other cycle answers a next state. -/
theorem faultExactlyOutsideTable : Obligations.FaultExactlyOutsideTable := by
  intro s
  by_cases hout : s.input.rst = false ∧ s.fsm = .emit ∧ Config.tableLength s.mvMode ≤ s.idx.toNat
  · obtain ⟨hr, hf, hk⟩ := hout
    rw [step_outside_table hr hf hk]
    exact ⟨fun r => by simp [hr, hf, hk], fun r => by simp⟩
  · obtain ⟨t, ht⟩ := step_completes (s := s) fun hr hf => Nat.lt_of_not_le fun hk => hout ⟨hr, hf, hk⟩
    rw [ht]
    exact ⟨fun r => by simp [hout], fun r => by simp⟩

/-- Settles O47: each cycle delivers its own of the events that the move owes, and the move ends at the last pattern of its last
pass. -/
theorem moveEmitsEveryPattern : Obligations.MoveEmitsEveryPattern := by
  intro k s t hf hi hrem hrun hmove hb he
  have hidx : s.idx.toNat = 0 := by rw [hi]; rfl
  have htable : MoveInTable s := fun _ => ⟨hrem, by rw [hidx]; exact tableLength_pos s.mvMode⟩
  have hstart : MoveOf s s :=
    ⟨rfl, rfl, rfl, htable, fun hf' => absurd (hf.symm.trans hf') (by decide),
      fun hfree => absurd (busy_of_emit hf) (Bool.eq_false_iff.mp hfree)⟩
  have hend : MoveOf s t := runCycles_keeps hstart hrun fun j hj u v hu hof hstep => by
    obtain ⟨hbusy, hr⟩ := hmove j hj u hu
    exact hof.of_step hbusy hr hstep
  obtain ⟨hidle, hidx', hremain', hcoil⟩ := hend.ended hb he
  refine ⟨?_, hcoil, hidle, hidx', hremain', hend.mvDir, hend.mvMode⟩
  rw [events_of_move htable hrun hmove hb he, eventsLeft_emit hf, hidx, eventsFrom, Nat.sub_zero, ← List.range_eq_range']
  rfl

/-- Settles O48: the answers left are the events that the move owes, of which a cycle delivers one when it is answered. -/
theorem eachAnswerMovesOneState : Obligations.EachAnswerMovesOneState := by
  refine ⟨fun d s t hf hpos h => ?_, fun d s t hf hpos h => ?_,
    fun s t hs hb hr h => ⟨fun hn => ?_, fun _ => ?_, fun hn => ?_⟩⟩
  · rw [exec_step_idle d hf] at h
    cases h
    exact answersLeft_startMove hpos (toInt_le s.arg0) d s
  · rw [exec_rotate_idle d hf] at h
    cases h
    exact answersLeft_startMove hpos (rotatePasses_le s.mode s.arg0) d s
  · obtain ⟨hmove, -⟩ := hs
    have hmove' := (runningCycle_of_step hr h).moveInTable hmove
    rw [answersLeft_eq_length hmove, answersLeft_eq_length hmove', eventsLeft_of_step hmove hb hr hn h, List.length_append,
      cycleEvents_length hmove hr, Nat.add_comm]
  · obtain ⟨hmove, -⟩ := hs
    exact busy_iff_answersLeft ((runningCycle_of_step hr h).moveInTable hmove)
  · exact not_busy_of_idle (abort_of_failed hr h hn).1

/-- Settles O49: a cycle without an answer keeps the engine, so any number of them does, and what is requested and held depends on the
engine alone. -/
theorem unansweredRequestHoldsForever : Obligations.UnansweredRequestHoldsForever := by
  intro k s t _ hb hrun hquiet
  have hsame : SameEngine s t := runCycles_keeps (.refl s) hrun fun j hj u v hu hsame hstep => by
    obtain ⟨hr, hanswers⟩ := hquiet j hj u hu
    have hbusy : u.busy = true := by
      obtain ⟨x, y, z, inputs, cycle, rfl⟩ := hsame
      exact hb
    exact hsame.of_step hbusy hr hanswers hstep
  have hr : t.input.rst = false → s.input.rst = false := by
    cases k with
    | zero =>
      cases hrun
      exact id
    | succ k => exact fun _ => (hquiet 0 k.succ_pos s rfl).1
  obtain ⟨x, y, z, inputs, cycle, rfl⟩ := hsame
  refine ⟨rfl, rfl, rfl, rfl, rfl, rfl, rfl, rfl, rfl, rfl, rfl, fun hrt => ⟨?_, ?_, rfl, rfl⟩, fun inp v => ?_⟩
  · rw [Bool.eq_iff_iff, outputs_wrReq, outputs_wrReq]
    exact and_congr Iff.rfl (iff_of_true hrt (hr hrt))
  · rw [Bool.eq_iff_iff, outputs_dlyReq, outputs_dlyReq]
    exact and_congr Iff.rfl (iff_of_true hrt (hr hrt))
  · exact busReady_held rfl rfl rfl hb

/-- Settles O56: such a cycle accepts no word, and outside a move the FSM makes no progress. -/
theorem cycleOutsideMoveKeepsState : Obligations.CycleOutsideMoveKeepsState := by
  intro s hf hr hcmd
  exact step_rest hr (busy_eq_false.mpr hf) fun ⟨hv, hw, ha, _⟩ => hcmd ⟨hv, hw, ha⟩

/-- Settles O11: STEP starts the move of its operand, which as a pass count is the word itself. -/
theorem stepStartsMove : Obligations.StepStartsMove := by
  intro d s hf
  rw [exec_step_idle d hf]
  refine ⟨fun hpos => ?_, fun hneg => by rw [startMove_zero_length hneg]⟩
  rw [startMove_positive hpos, BitVec.ofInt_toInt]

/-- Settles O29, by the requests of each FSM state. -/
theorem platformRequestsFollowFsm : Obligations.PlatformRequestsFollowFsm := by
  intro s hr
  refine ⟨fun hf => ?_, fun hf => ?_, outputs_no_request⟩
  · exact ⟨outputs_wrReq.mpr ⟨hf, hr⟩, outputs_dlyReq_eq_false (by simp [hf]), rfl⟩
  · exact ⟨outputs_wrReq_eq_false (by simp [hf]), outputs_dlyReq.mpr ⟨hf, hr⟩, rfl⟩

/-- Settles O55: the two rules of `bus_ready` let the same accesses through and agree where an access is presented. -/
theorem cycleFunctionIsStep : Obligations.CycleFunctionIsStep := by
  intro s
  rw [cycleFunction_snd]
  refine ⟨cycleFunction_fst s, fun hr => ?_, fun h => ?_, fun hr hv => ⟨?_, busReady_silent s hr hv⟩⟩
  · simp [cycleOutputs, cycleReady, State.busy, hr]
  · rcases h with hr | hv
    · simp [cycleOutputs, outputs, busReady, hr]
    · exact cycleOutputs_eq_outputs hv
  · have hready : (!s.input.rst && cycleReady s.input s) =
        if s.input.busWrite = true ∧ s.input.busAddr = 0#4 ∧ s.busy = true then false else (outputs s).busReady := by
      have hR55 : (outputs s).busReady = true := busReady_silent s hr hv
      rw [hR55, hr, cycleReady]
      split_ifs with hheld
      · obtain ⟨hw, ha, hb⟩ := hheld
        simp [hw, ha, hb]
      · by_contra hne
        exact hheld (by simpa [and_assoc] using hne)
    rw [cycleOutputs, hready]

end Sys2Proof

/-! ## The statement of 60_exceptions.md

SUPPORT, and the abort of a move (R204). -/

namespace Sys2Proof.Machine

open Sys2Proof.Safety

/-- What fails in a cycle without reset: the request that stands (R162, R163). -/
theorem failed_iff {s : State} (hr : s.input.rst = false) :
    failed s = true ↔ (s.fsm = .emit ∧ s.input.wrErr = true) ∨ (s.fsm = .dwell ∧ s.input.dlyErr = true) := by
  cases hf : s.fsm <;> simp [failed, hr, hf]

/-- A cycle with a failure aborts the move, beside the host's own operand write (R204). -/
theorem step_of_failed {s t : State} (hr : s.input.rst = false) (h : step s = .next t) (hn : failed s = true) :
    t = (hostOperands s (abortMove s)).consume := by
  cases moveCycle_of_step (busy_of_answered_or_failed hr (.inr hn)) hr h with
  | abort => rfl
  | hold _ hn' | wrote _ _ _ _ hn' | waited _ _ hn' => exact absurd (hn'.symm.trans hn) Bool.false_ne_true

/-- A move begins at index 0 (R145). -/
theorem idx_of_move {s t : State} {d : Direction} (hf : s.fsm = .idle)
    (h : exec (.step d) s = .next t ∨ exec (.rotate d) s = .next t) (hb : t.busy = true) : t.idx = 0#3 := by
  rcases move_cases h with ⟨e, rfl⟩ | ⟨n, -, rfl⟩
  · exact absurd hf (ne_idle_of_busy hb)
  · rfl

end Sys2Proof.Machine

namespace Sys2Proof

open Sys2Proof.Machine Sys2Proof.Safety

/-- Settles O32: the aborted state is in IDLE, where nothing is requested and every move begins anew. -/
theorem abortKeepsFailurePoint : Obligations.AbortKeepsFailurePoint := by
  intro s t hr hfail h
  obtain rfl := step_of_failed hr h ((failed_iff hr).mpr hfail)
  exact ⟨rfl, outputs_wrReq_eq_false (by simp), fun d v u hexec hb => idx_of_move rfl hexec hb⟩

end Sys2Proof

/-! ## The statements of 70_reset_and_hazards.md

SUPPORT, the reset cycle (R230), and the invariant and progress of every reachable state (10_state.md R40). -/

namespace Sys2Proof.Machine

open Sys2Proof.Safety

/-- In reset nothing is accepted from the host and nothing is requested of the platform (R230). -/
theorem outputs_in_reset {s : State} (hr : s.input.rst = true) :
    (outputs s).busReady = false ∧ (outputs s).wrReq = false ∧ (outputs s).dlyReq = false := by
  simp [outputs, busReady, hr]

/-- R40 holds after reset, whatever the tables and the inputs are. -/
theorem statedInvariant_resetBlock (s : State) : StatedInvariant (resetBlock s) :=
  ⟨fun hb => absurd rfl (ne_uncfg_of_busy hb), fun hf => absurd rfl hf, fun _ => ⟨rfl, rfl, rfl, rfl⟩, ErrCode.bits_le _⟩

theorem statedInvariant_of_reachable {s : State} (h : Reachable s) : StatedInvariant s := by
  obtain ⟨tables, inputs, cycle, k, -, hrun⟩ := h
  have hstart : StatedInvariant { State.reset with tables := tables, inputs := inputs, cycle := cycle } :=
    statedInvariant_resetBlock { State.reset with tables, inputs, cycle }
  exact runCycles_keeps hstart hrun fun _ _ _ _ _ hu hstep => statedInvariant_of_step hu hstep

/-- Under R40 the index of a move lies in the latched table, so no cycle stops (R142, R167). -/
theorem step_completes_of_statedInvariant {s : State} (h : StatedInvariant s) : ∃ t, step s = .next t := by
  obtain ⟨hmove, -⟩ := h
  exact step_completes fun _ hf => (hmove (busy_of_emit hf)).2

end Sys2Proof.Machine

namespace Sys2Proof

open Sys2Proof.Machine Sys2Proof.Safety

/-- Settles O42: R40 holds after reset and every cycle keeps it, so it holds along every run from reset, and under it no cycle stops. -/
theorem reachableStatesMeetInvariant : Obligations.ReachableStatesMeetInvariant := by
  intro s h
  have hs : StatedInvariant s := statedInvariant_of_reachable h
  exact ⟨hs, step_completes_of_statedInvariant hs⟩

/-- Settles O35: the outputs of a reset cycle, and its step, which is `resetBlock` whatever the state and the other inputs are. -/
theorem resetOverridesEverything : Obligations.ResetOverridesEverything := by
  intro s hr
  obtain ⟨hready, hwrite, hdelay⟩ := outputs_in_reset hr
  exact ⟨hready, hwrite, hdelay, step_reset hr⟩

end Sys2Proof

/-! ## The statements about the invariants of every cycle

The invariants of 10_state.md R40 in the state after reset and in every cycle, and the totality of the cycle function (41_motion.md R167). -/

namespace Sys2Proof

open Sys2Proof.Machine Sys2Proof.Safety

/-- Settles O38: a reset cycle establishes R40, and each kind of running cycle keeps its invariants one by one. -/
theorem statedInvariantIsKept : Obligations.StatedInvariantIsKept := fun _ _ => statedInvariant_of_step

/-- Settles O40: under R40 the index of a move lies in the latched table, and only an index outside it stops a cycle. -/
theorem noCycleStopsUnderInvariant : Obligations.NoCycleStopsUnderInvariant := fun _ => step_completes_of_statedInvariant

/-- Settles O37: R40 as after every reset cycle; of the model's own four, index and pass count are 0, ERR is OK, and the default tables are legal. -/
theorem invariantsAtReset : Obligations.InvariantsAtReset := by
  have hstated : StatedInvariant State.reset := statedInvariant_resetBlock State.reset
  have htables : Config.defaultTables.legal = true := by decide
  exact ⟨hstated, hstated, tableLength_pos .full, Nat.zero_le _, fun _ => rfl, htables⟩

end Sys2Proof
